-- ==== Sys2Proof/Word.lean ====
section
/-! DEFINITION. The widths of the aoc2017 CORE (R6, R7): the int64, the instruction word, the byte of a program image. -/

namespace Sys2Proof

/-- An int64 (R6, R7): every register, literal, channel element, pc, lsv, frv and sent_count.
The pattern is two's complement, read as a signed integer by `BitVec.toInt` (the spec's own general knowledge in R6: log entry 12). -/
abbrev Word := BitVec 64

/-- One instruction word of the program store (R45): 136 bits, bit 0 least significant. -/
abbrev InstrWord := BitVec 136

/-- One byte of a program image held outside the core (R46). -/
abbrev Byte := BitVec 8

/-- `wrap64(v)` (R7): the unique int64 congruent to the mathematical integer `v` modulo `2^64`. -/
def wrap64 (v : Int) : Word := BitVec.ofInt 64 v

end Sys2Proof
end

