-- ==== Sys2Proof/Config.lean ====
section
/-! DEFINITION. The parameters of the hardware (R6): the two constants that size it, and the two values after reset
that the spec leaves free, as constants without a body. -/

namespace Sys2Proof

/-- The largest program length `L` (R6, R31, D12): `2^63 - 1` instructions. -/
def Config.maxProgramLength : Nat := 2 ^ 63 - 1

/-- `LSV_RESET` (R6, R15, U1, D14): what `last_sent_value` holds after reset. "any int64, under no law": an opaque
constant, so no proof can see a value of it. Log entry 4. -/
opaque Config.lsvReset : Word

/-- What `first_recovered_value` of unit `k` holds after reset, while its latch flag is false (R16, U2): unspecified, so an
opaque constant. DESIGN CHOICE, log entry 5. -/
opaque Config.frvReset (k : Nat) : Word

end Sys2Proof
end

