-- ==== Sys2Proof/Syntax.lean ====
section
/-! DEFINITION. The instruction as a structure (R47): the source's unchecked form `{opcode, operand1, operand2?}`, and the seven
instructions with operands that can only be of an allowed form. -/

namespace Sys2Proof

/-- A register's index, its letter offset (R11): `a` is 0, `z` is 25. There are 26 registers (NREGS, R6). -/
abbrev RegIdx := Fin 26

/-- Register `p`, index 15, the one seeded with the unit's identity in cooperative mode (R13). -/
def regP : RegIdx := 15

/-- An operand (R47): a register reference or an int64 literal. Log entry 15. -/
inductive Operand where
  | reg (i : RegIdx)
  | lit (v : Word)
  deriving DecidableEq, Repr

/-- The seven instructions (R2, R47), one constructor per row of the opcode table. -/
inductive Instr where
  | snd (x : Operand)
  | set (r : RegIdx) (x : Operand)
  | add (r : RegIdx) (x : Operand)
  | mul (r : RegIdx) (x : Operand)
  | mod (r : RegIdx) (x : Operand)
  | rcv (r : RegIdx)
  | jgz (x y : Operand)
  deriving DecidableEq, Repr

/-- The opcode vocabulary (R2): "the opcode set is fixed and exhaustive". -/
inductive Opcode where
  | snd | set | add | mul | mod | rcv | jgz
  deriving DecidableEq, Repr

/-- An operand before any check: a register index or an integer, of any size. -/
inductive RawOperand where
  | reg (index : Nat)
  | lit (value : Int)
  deriving DecidableEq, Repr

/-- The source's own data model of an instruction (R47), before any check: `{opcode, operand1, operand2?}`, with a first
operand that may be missing too, as in a line of text (R57). -/
structure RawInstr where
  opcode : Opcode
  operand1 : Option RawOperand
  operand2 : Option RawOperand
  deriving DecidableEq, Repr

/-- The two decode errors (R51, R121, R122). -/
inductive DecodeFault where
  | unknownOpcode
  | malformedOperand
  deriving DecidableEq, Repr

/-- The opcode of an instruction. -/
def Instr.opcode : Instr → Opcode
  | .snd _ => .snd
  | .set _ _ => .set
  | .add _ _ => .add
  | .mul _ _ => .mul
  | .mod _ _ => .mod
  | .rcv _ => .rcv
  | .jgz _ _ => .jgz

/-- The opcode numbers (R49, D2). -/
def Opcode.number : Opcode → BitVec 6
  | .snd => 0
  | .set => 1
  | .add => 2
  | .mul => 3
  | .mod => 4
  | .rcv => 5
  | .jgz => 6

/-- An instruction that is neither `snd` nor `rcv`: one whose meaning does not depend on the mode. -/
def Instr.silent : Instr → Bool
  | .snd _ => false
  | .set _ _ => true
  | .add _ _ => true
  | .mul _ _ => true
  | .mod _ _ => true
  | .rcv _ => false
  | .jgz _ _ => true

end Sys2Proof
end

