-- ==== Sys2Proof/WellFormed.lean ====
section
/-! DEFINITION. When an unchecked instruction is one of the seven (R47, R52): the register's index, the literal's range, the
positions that must be registers, and the number of operands. An `Instr` carries the first three in its types; `Instr.toRaw`
is its unchecked form, and `Instr.wf` reads the same checks off it. -/

namespace Sys2Proof

/-- The operand names a register `a` to `z` (R11, D3), or is an int64 (R56, D6). -/
def RawOperand.wf : RawOperand → Bool
  | .reg i => decide (i ≤ 25)
  | .lit v => decide (-(2 ^ 63) ≤ v ∧ v ≤ 2 ^ 63 - 1)

/-- Whether the operand is a register reference. -/
def RawOperand.isReg : RawOperand → Bool
  | .reg _ => true
  | .lit _ => false

/-- The opcodes whose first operand must be a register (R47, D4). -/
def Opcode.firstIsDestination : Opcode → Bool
  | .snd => false
  | .set => true
  | .add => true
  | .mul => true
  | .mod => true
  | .rcv => true
  | .jgz => false

/-- The opcodes that take a second operand (R47, D5). -/
def Opcode.takesTwo : Opcode → Bool
  | .snd => false
  | .set => true
  | .add => true
  | .mul => true
  | .mod => true
  | .rcv => false
  | .jgz => true

/-- The first operand is present, well-formed, and a register where the opcode writes it (R47, D4). -/
def RawInstr.firstOk (i : RawInstr) : Bool :=
  match i.operand1 with
  | none => false
  | some x => x.wf && (x.isReg || !i.opcode.firstIsDestination)

/-- The second operand is present and well-formed exactly where the opcode takes one (R47, D5). -/
def RawInstr.secondOk (i : RawInstr) : Bool :=
  match i.operand2 with
  | none => !i.opcode.takesTwo
  | some y => i.opcode.takesTwo && y.wf

/-- The unchecked instruction is one of the seven of R47. -/
def RawInstr.wf (i : RawInstr) : Bool := i.firstOk && i.secondOk

/-- The unchecked form of an operand. -/
def Operand.toRaw : Operand → RawOperand
  | .reg i => .reg i.val
  | .lit v => .lit v.toInt

/-- The unchecked form of an instruction. -/
def Instr.toRaw : Instr → RawInstr
  | .snd x => ⟨.snd, some x.toRaw, none⟩
  | .set r x => ⟨.set, some (.reg r.val), some x.toRaw⟩
  | .add r x => ⟨.add, some (.reg r.val), some x.toRaw⟩
  | .mul r x => ⟨.mul, some (.reg r.val), some x.toRaw⟩
  | .mod r x => ⟨.mod, some (.reg r.val), some x.toRaw⟩
  | .rcv r => ⟨.rcv, some (.reg r.val), none⟩
  | .jgz x y => ⟨.jgz, some x.toRaw, some y.toRaw⟩

/-- Well-formedness of an instruction: that of its unchecked form. Every `Instr` has it (`Laws.SourceForm`), because its types
carry the checks. -/
def Instr.wf (i : Instr) : Bool := i.toRaw.wf

end Sys2Proof
end

