-- ==== Sys2Proof/Decode.lean ====
section
/-! DEFINITION. Decoding, total on every word and every byte string (R51, R52), and after it the encoder (R53), the byte
image of a program (R46) and the check of an unchecked instruction (R57). -/

namespace Sys2Proof

/-! ## Fields of a word (R45) -/

/-- `opc`, bits 5:0. -/
def InstrWord.opc (w : InstrWord) : BitVec 6 := w.extractLsb' 0 6

/-- `k1`, bit 6: the kind of operand 1, true for a literal. -/
def InstrWord.k1 (w : InstrWord) : Bool := w.getLsbD 6

/-- `k2`, bit 7: the kind of operand 2, true for a literal. -/
def InstrWord.k2 (w : InstrWord) : Bool := w.getLsbD 7

/-- `p1`, bits 71:8: the payload of operand 1. -/
def InstrWord.p1 (w : InstrWord) : Word := w.extractLsb' 8 64

/-- `p2`, bits 135:72: the payload of operand 2. -/
def InstrWord.p2 (w : InstrWord) : Word := w.extractLsb' 72 64

/-! ## Operand payloads (R48) -/

/-- A register payload: `p[63:5] = 0` and `p[4:0] <= 25` name register `p[4:0]`; anything else is malformed (R48, D3). -/
def regPayload (p : Word) : Option RegIdx :=
  if h : p.extractLsb' 5 59 = 0 ∧ (p.extractLsb' 0 5).toNat ≤ 25 then
    some ⟨(p.extractLsb' 0 5).toNat, by omega⟩
  else none

/-- `operand(k, p)` (R48): a literal takes every payload; none is Malformed. -/
def decodeOperand (k : Bool) (p : Word) : Option Operand :=
  if k then some (.lit p) else (regPayload p).map .reg

/-- `regonly(k, p)` (R48): a position that must be a register. -/
def decodeRegOnly (k : Bool) (p : Word) : Option RegIdx :=
  if k then none else regPayload p

/-- `absent(k, p)` (R48): the required encoding of a missing operand 2. -/
def operandAbsent (k : Bool) (p : Word) : Bool := !k && decide (p = 0)

/-! ## The decoder (R51) -/

/-- `snd` and `rcv` shape: operand 1 decoded, operand 2 absent. -/
def decodeOne {α : Type} (o1 : Option α) (ok2 : Bool) (mk : α → Instr) : Except DecodeFault Instr :=
  match o1 with
  | none => .error .malformedOperand
  | some a => if ok2 then .ok (mk a) else .error .malformedOperand

/-- Two-operand shape: both operands decoded. -/
def decodeTwo {α β : Type} (o1 : Option α) (o2 : Option β) (mk : α → β → Instr) : Except DecodeFault Instr :=
  match o1, o2 with
  | some a, some b => .ok (mk a b)
  | none, _ => .error .malformedOperand
  | some _, none => .error .malformedOperand

/-- `decode(w)` (R51): `UnknownOpcode` is tested first, then the operands of the opcode. Total on all `2^136` words. -/
def decode (w : InstrWord) : Except DecodeFault Instr :=
  if 6 < w.opc.toNat then .error .unknownOpcode
  else if w.opc.toNat = 0 then decodeOne (decodeOperand w.k1 w.p1) (operandAbsent w.k2 w.p2) .snd
  else if w.opc.toNat = 1 then decodeTwo (decodeRegOnly w.k1 w.p1) (decodeOperand w.k2 w.p2) .set
  else if w.opc.toNat = 2 then decodeTwo (decodeRegOnly w.k1 w.p1) (decodeOperand w.k2 w.p2) .add
  else if w.opc.toNat = 3 then decodeTwo (decodeRegOnly w.k1 w.p1) (decodeOperand w.k2 w.p2) .mul
  else if w.opc.toNat = 4 then decodeTwo (decodeRegOnly w.k1 w.p1) (decodeOperand w.k2 w.p2) .mod
  else if w.opc.toNat = 5 then decodeOne (decodeRegOnly w.k1 w.p1) (operandAbsent w.k2 w.p2) .rcv
  else decodeTwo (decodeOperand w.k1 w.p1) (decodeOperand w.k2 w.p2) .jgz

/-- Whether a word is an instruction (R52: a word either decodes or is a fault). -/
def wordOk (w : InstrWord) : Bool :=
  match decode w with
  | .ok _ => true
  | .error _ => false

/-! ## The encoder (R53) -/

/-- The kind bit of an operand: 0 register, 1 literal (R45). -/
def Operand.kind : Operand → BitVec 1
  | .reg _ => 0
  | .lit _ => 1

/-- The payload of a register reference: its index, zero-extended (R53). -/
def regBits (i : RegIdx) : Word := BitVec.ofNat 64 i.val

/-- The payload of an operand (R53). -/
def Operand.payload : Operand → Word
  | .reg i => regBits i
  | .lit v => v

/-- `word(opc, (k1, p1), (k2, p2))` (R53): the five fields side by side, as the picture of R45 has them. -/
def mkWord (opc : BitVec 6) (k1 : BitVec 1) (p1 : Word) (k2 : BitVec 1) (p2 : Word) : InstrWord :=
  p2 ++ p1 ++ k2 ++ k1 ++ opc

/-- `encode(i)` (R53). -/
def encode : Instr → InstrWord
  | .snd x => mkWord (Opcode.number .snd) x.kind x.payload 0 0
  | .set r x => mkWord (Opcode.number .set) 0 (regBits r) x.kind x.payload
  | .add r x => mkWord (Opcode.number .add) 0 (regBits r) x.kind x.payload
  | .mul r x => mkWord (Opcode.number .mul) 0 (regBits r) x.kind x.payload
  | .mod r x => mkWord (Opcode.number .mod) 0 (regBits r) x.kind x.payload
  | .rcv r => mkWord (Opcode.number .rcv) 0 (regBits r) 0 0
  | .jgz x y => mkWord (Opcode.number .jgz) x.kind x.payload y.kind y.payload

/-! ## Words as bytes (R46) -/

/-- The 17 bytes of a word, least significant first (R46). -/
def wordBytes (w : InstrWord) : List Byte :=
  (List.range 17).map fun j => w.extractLsb' (8 * j) 8

/-- The word whose image begins with these bytes, least significant first; bytes past the seventeenth do not reach it. -/
def bytesWord (bs : List Byte) : InstrWord :=
  (bs.take 17).foldr (fun b acc => acc <<< 8 ||| b.setWidth 136) 0

/-- Why a byte string does not begin with an instruction: fewer than 17 bytes, or a word that decodes to a fault. -/
inductive BytesFault where
  | truncated
  | badWord (f : DecodeFault)
  deriving DecidableEq, Repr

/-- Decoding of a byte string: the first instruction and the bytes after it, or a rejection by name. Total. -/
def decodeBytes (bs : List Byte) : Except BytesFault (Instr × List Byte) :=
  if bs.length < 17 then .error .truncated
  else
    match decode (bytesWord bs) with
    | .ok i => .ok (i, bs.drop 17)
    | .error f => .error (.badWord f)

/-- The byte image of a program (R46): word `i` occupies bytes `17*i` to `17*i + 16`. -/
def programImage (prog : List InstrWord) : List Byte := prog.flatMap wordBytes

/-- Reading `n` words from an image. -/
def imageWords : Nat → List Byte → List InstrWord
  | 0, _ => []
  | n + 1, bs => bytesWord bs :: imageWords n (bs.drop 17)

/-- The program of a byte image (R46); an image whose length is no multiple of 17 is no program image.
DESIGN CHOICE, log entry 22. -/
def programOfImage (bs : List Byte) : Option (List InstrWord) :=
  if bs.length % 17 = 0 then some (imageWords (bs.length / 17) bs) else none

/-! ## Checking an unchecked instruction (R47, R57) -/

/-- The operand of an unchecked operand, where it is well-formed. -/
def RawOperand.check : RawOperand → Option Operand
  | .reg i => if h : i < 26 then some (.reg ⟨i, h⟩) else none
  | .lit v => if -(2 ^ 63) ≤ v ∧ v ≤ 2 ^ 63 - 1 then some (.lit (wrap64 v)) else none

/-- The register of an unchecked operand that must be one. -/
def RawOperand.checkReg : RawOperand → Option RegIdx
  | .reg i => if h : i < 26 then some ⟨i, h⟩ else none
  | .lit _ => none

/-- The instruction of an unchecked one, `MalformedOperand` where an operand or the arity is wrong (R57). -/
def RawInstr.check (i : RawInstr) : Except DecodeFault Instr :=
  match i.opcode with
  | .snd => decodeOne (i.operand1.bind RawOperand.check) i.operand2.isNone .snd
  | .set => decodeTwo (i.operand1.bind RawOperand.checkReg) (i.operand2.bind RawOperand.check) .set
  | .add => decodeTwo (i.operand1.bind RawOperand.checkReg) (i.operand2.bind RawOperand.check) .add
  | .mul => decodeTwo (i.operand1.bind RawOperand.checkReg) (i.operand2.bind RawOperand.check) .mul
  | .mod => decodeTwo (i.operand1.bind RawOperand.checkReg) (i.operand2.bind RawOperand.check) .mod
  | .rcv => decodeOne (i.operand1.bind RawOperand.checkReg) i.operand2.isNone .rcv
  | .jgz => decodeTwo (i.operand1.bind RawOperand.check) (i.operand2.bind RawOperand.check) .jgz

/-! ## The host's view of the decoder -/

/-- The instruction the decoder reads from a word whose low `nbits` bits are `w` and whose other bits are 0, numbered as
`spec/opcode_table.json` numbers them: one 136-bit word, bit 0 least significant. Log entry 21. -/
def decodeTableWord (nbits w : Nat) : Option Instr :=
  match decode (BitVec.ofNat 136 (w % 2 ^ nbits)) with
  | .ok i => some i
  | .error _ => none

end Sys2Proof
end

