-- ==== Sys2Proof/Machine/State.lean ====
section
/-! DEFINITION. The state of the machine (R10), its reset value (R27, R140), and the reasons a step can stop.
The state is plain data. -/

namespace Sys2Proof.Machine

/-- The two units (R10, R133). The spec numbers them 0 and 1. -/
inductive UnitId where
  | u0
  | u1
  deriving DecidableEq, Repr

/-- The unit other than `k`, `1 - k` in the spec's notation. -/
def UnitId.other : UnitId → UnitId
  | .u0 => .u1
  | .u1 => .u0

/-- The unit's number as a value: the identity that `p` is seeded with (R13). -/
def UnitId.identity : UnitId → Word
  | .u0 => 0
  | .u1 => 1

/-- The state machine of a unit (R18). -/
inductive UState where
  | running
  | suspended
  | halted
  deriving DecidableEq, Repr

/-- The execution mode of a run (R3, R20). -/
inductive Mode where
  | standalone
  | cooperative
  deriving DecidableEq, Repr

/-- The phase of a run (R20). -/
inductive Phase where
  | check
  | run
  | done
  | fault
  deriving DecidableEq, Repr

/-- The fault code (R21, R120): code 0 means no fault. -/
inductive FaultCode where
  | none
  | unknownOpcode
  | malformedOperand
  | modByZero
  deriving DecidableEq, Repr

/-- The number of a fault code (R120, D9). -/
def FaultCode.number : FaultCode → Nat
  | .none => 0
  | .unknownOpcode => 1
  | .malformedOperand => 2
  | .modByZero => 3

/-- The fault code of a decode error (R120). -/
def FaultCode.ofDecode : DecodeFault → FaultCode
  | .unknownOpcode => .unknownOpcode
  | .malformedOperand => .malformedOperand

/-- The state of one execution unit (R10): registers (R11), pc (R14), unit state (R18), `last_sent_value` (R15),
`first_recovered_value` with its latch flag (R16), and the count of values sent (R17). -/
structure ExecUnit where
  regs       : Vector Word 26
  pc         : Word
  ustate     : UState
  lsv        : Word
  frv        : Word
  frvLatched : Bool
  sentCount  : Word
  deriving DecidableEq, Repr

/-- The program store (R31): the words `prog[0]` to `prog[L-1]`, with `L` the length of the list. It is the machine's only
addressed space (R30); there is no byte-addressed memory. Log entry 2. -/
abbrev Memory := List InstrWord

/-- The bound on the program's length (R31, D12). Log entry 17. -/
def Memory.wf (m : Memory) : Bool := decide (m.length ≤ Config.maxProgramLength)

/-- The state of the machine (R10): the two units, the two channels head first (R23, R34), the scheduler's three fields (R19),
mode and phase (R20), the fault record (R21), the exposed result (R22); and the program store, which the spec gives as an
argument of the step (R24, log entry 1). -/
structure State where
  u0           : ExecUnit
  u1           : ExecUnit
  q0           : List Word
  q1           : List Word
  active       : UnitId
  turnProgress : Bool
  prevZero     : Bool
  mode         : Mode
  phase        : Phase
  faultCode    : FaultCode
  faultIndex   : Word
  result       : Word
  resultValid  : Bool
  prog         : Memory
  deriving DecidableEq, Repr

/-- Reasons the machine has no next state. None of them is one of the hardware's three faults: those are taken, as next states
whose phase is FAULT (R124). No meaning of an instruction answers with one. -/
inductive Fault where
  /-- `step` in phase DONE: the run has ended and no step is enabled (R65, R73). Safe: the model only stops.
  Log entry 7. -/
  | runDone
  /-- `step` in phase FAULT: the run was ended by a fault and no step is enabled (R65, R124). Safe: the model only
  stops. Log entry 7. -/
  | runFaulted
  /-- `step` in phase RUN at a word that does not decode: no run reaches it, since the validation step precedes RUN and the
  program never changes (R67). Safe: the model only stops. Log entry 8. -/
  | undecodableWord
  deriving DecidableEq, Repr

/-- Reasons an instruction has no meaning in the model. -/
inductive Refusal where
  /-- An arm of `exec` without a meaning yet; no arm of this model is one. Safe: the model only stops. -/
  | notModelled (mnemonic : String)
  deriving DecidableEq, Repr

/-- How a step can end: a next state, or a stop. -/
abbrev Answer := Host.Outcome State Fault Refusal

/-- The outcome of one step of a unit (R66). `fault` is the outcome `Fault(f)`: which fault stands in the fault record. -/
inductive UnitOutcome where
  | idle
  | halt
  | executed
  | suspend
  | fault
  deriving DecidableEq, Repr

/-- The registers of unit `k` after reset (R13, R27): all 0, but `p` is the identity in cooperative mode. -/
def resetRegs (mode : Mode) (k : UnitId) : Vector Word 26 :=
  match mode with
  | .standalone => Vector.replicate 26 0
  | .cooperative => (Vector.replicate 26 0).set regP.val k.identity

/-- The number of a unit. -/
def UnitId.number : UnitId → Nat
  | .u0 => 0
  | .u1 => 1

/-- Unit `k` after reset (R27, R140). -/
def ExecUnit.reset (mode : Mode) (k : UnitId) : ExecUnit where
  regs       := resetRegs mode k
  pc         := 0
  ustate     := .running
  lsv        := Config.lsvReset
  frv        := Config.frvReset k.number
  frvLatched := false
  sentCount  := 0

/-- `Reset(mode_sel)` with the program loaded (R27, R140): every field's value. -/
def State.resetWith (modeSel : Mode) (prog : Memory) : State where
  u0           := ExecUnit.reset modeSel .u0
  u1           := ExecUnit.reset modeSel .u1
  q0           := []
  q1           := []
  active       := .u0
  turnProgress := false
  prevZero     := false
  mode         := modeSel
  phase        := .check
  faultCode    := .none
  faultIndex   := 0
  result       := 0
  resultValid  := false
  prog         := prog

/-- The machine after reset with nothing loaded (`L = 0`, which R31 allows) and `mode_sel` STANDALONE. The two are the host's
inputs, on which the spec puts no value: DESIGN CHOICE, log entry 3. -/
def State.reset : State := State.resetWith .standalone []

end Sys2Proof.Machine
end

