-- ==== Sys2Proof/Machine/Ops.lean ====
section
/-! DEFINITION. The named operations over units, registers, channels, the program store and the fault record, and the
host's reset. Every meaning reads and writes the state through these. -/

namespace Sys2Proof.Machine

/-! ## Units and channels -/

/-- `U[k]` (R10). -/
def State.unit (s : State) : UnitId → ExecUnit
  | .u0 => s.u0
  | .u1 => s.u1

/-- `U[k] <- u`. -/
def State.setUnit (s : State) (k : UnitId) (u : ExecUnit) : State :=
  match k with
  | .u0 => { s with u0 := u }
  | .u1 => { s with u1 := u }

/-- `Q[k]` (R33): written by unit `k`, read by the other unit. -/
def State.chan (s : State) : UnitId → List Word
  | .u0 => s.q0
  | .u1 => s.q1

/-- `Q[k] <- q`. -/
def State.setChan (s : State) (k : UnitId) (q : List Word) : State :=
  match k with
  | .u0 => { s with q0 := q }
  | .u1 => { s with q1 := q }

/-- `id` (R7): the unit that executes. Unit 0 in standalone mode (R71), the active unit in cooperative mode (R101). Log entry 9. -/
def State.executing (s : State) : UnitId :=
  match s.mode with
  | .standalone => .u0
  | .cooperative => s.active

/-- The executing unit. -/
def State.cur (s : State) : ExecUnit := s.unit s.executing

/-- Write the executing unit. -/
def State.setCur (s : State) (u : ExecUnit) : State := s.setUnit s.executing u

/-- `inbound(id)` as an index into the channels: `Q[1 - id]` (R33). -/
def State.inbound (s : State) : UnitId := s.executing.other

/-! ## Registers (R8, R11) -/

/-- `x[i]` of a unit. Every register holds a value; a register nothing has written reads its reset value (R12). -/
def ExecUnit.reg (u : ExecUnit) (i : RegIdx) : Word := u.regs[i.val]

/-- `x[i] <- v` of a unit. -/
def ExecUnit.setReg (u : ExecUnit) (i : RegIdx) (v : Word) : ExecUnit := { u with regs := u.regs.set i.val v }

/-- `get` (R8): `x[i]` of the executing unit. -/
def State.readReg (s : State) (i : RegIdx) : Word := s.cur.reg i

/-- `set` (R8): `x[i] <- v` of the executing unit. -/
def State.writeReg (s : State) (i : RegIdx) (v : Word) : State := s.setCur (s.cur.setReg i v)

/-! ## Program counter (R14, R68) -/

/-- The end of an executed instruction: the new pc, and `ustate <- RUNNING` (R66, R68). -/
def State.retire (s : State) (target : Word) : State := s.setCur { s.cur with pc := target, ustate := .running }

/-- The ordinary end of an instruction: `pc <- wrap64(pc + 1)` (R68). -/
def State.advance (s : State) : State := s.retire (wrap64 (s.cur.pc.toInt + 1))

/-- The state of the executing unit's state machine (R18). -/
def State.setUstate (s : State) (st : UState) : State := s.setCur { s.cur with ustate := st }

/-! ## Mode-specific registers (R15, R16, R17) -/

/-- `lsv <- v` (R91). -/
def State.setLsv (s : State) (v : Word) : State := s.setCur { s.cur with lsv := v }

/-- `frv <- lsv; frv_latched <- true`, if not already latched (R16, R94). -/
def State.latchFrv (s : State) : State :=
  if s.cur.frvLatched then s else s.setCur { s.cur with frv := s.cur.lsv, frvLatched := true }

/-- `sent_count <- wrap64(sent_count + 1)` (R92). -/
def State.countSent (s : State) : State := s.setCur { s.cur with sentCount := wrap64 (s.cur.sentCount.toInt + 1) }

/-! ## Channels (R34 to R37) -/

/-- `QueuePush` onto the executing unit's outbound channel (R35): it always succeeds. -/
def State.push (s : State) (v : Word) : State := s.setChan s.executing (s.chan s.executing ++ [v])

/-- The head and the rest of the executing unit's inbound channel (R36), none where `QueueEmpty` holds (R37). -/
def State.popInbound (s : State) : Option (Word × State) :=
  match s.chan s.inbound with
  | [] => none
  | v :: rest => some (v, s.setChan s.inbound rest)

/-! ## Program store (R31, R32) -/

/-- `L`. -/
def State.progLength (s : State) : Nat := s.prog.length

/-- `0 <= a < L`, the bounds check (R66). -/
def State.inProgram (s : State) (a : Word) : Bool := decide (0 ≤ a.toInt ∧ a.toInt < s.progLength)

/-- `Fetch(a)` (R32): the word at index `a`, defined exactly for `0 <= a < L`. -/
def State.fetch (s : State) (a : Word) : Option InstrWord :=
  if s.inProgram a then s.prog[a.toInt.toNat]? else none

/-- The first word that does not decode, with its index (R70): words are examined in ascending index from `a`. -/
def firstInvalid : Memory → Nat → Option (Nat × DecodeFault)
  | [], _ => none
  | w :: ws, a =>
    match decode w with
    | .error f => some (a, f)
    | .ok _ => firstInvalid ws (a + 1)

/-! ## Faults (R124) -/

/-- `raise f(a)` (R124): the fault record and the phase, nothing else. It is the machine's whole exception entry: no state is
saved, there is no handler, and no instruction returns from it (R127). -/
def State.raise (s : State) (f : FaultCode) (a : Word) : State :=
  { s with faultCode := f, faultIndex := a, resultValid := false, phase := .fault }

/-! ## Result (R22) -/

/-- The transition to DONE with a result (R71, R106). -/
def State.finish (s : State) (value : Word) (valid : Bool) : State :=
  { s with result := value, resultValid := valid, phase := .done }

/-! ## The host (R141, R143) -/

/-- The host applies reset in any state, with a program loaded and `mode_sel` presented (R140, R141): nothing of the state before
survives. Log entry 13. -/
def State.hostReset (_s : State) (modeSel : Mode) (prog : Memory) : State := State.resetWith modeSel prog

/-- What the host can read (R28, R143). The result is there only when `phase = DONE` and `result_valid`; the fault record only
when `phase = FAULT` (U2: a model gives no access to a result that is not valid). -/
structure HostView where
  phase  : Phase
  result : Option Word
  fault  : Option (FaultCode × Word)
  deriving DecidableEq, Repr

/-- The host's reading of a state (R28, R143). Log entry 20. -/
def State.hostView (s : State) : HostView where
  phase  := s.phase
  result := if s.phase = .done ∧ s.resultValid = true then some s.result else none
  fault  := if s.phase = .fault then some (s.faultCode, s.faultIndex) else none

end Sys2Proof.Machine
end

