-- ==== Sys2Proof/Machine/Flags.lean ====
section
/-! DEFINITION. The machine has no flags, condition codes or predicates (R25), so nothing here writes one. What stands in
their place are two tests of a value, made by the instruction itself and leaving nothing behind. -/

namespace Sys2Proof.Machine

/-- The test of `jgz` (R86): greater than zero, signed. -/
def isPositive (v : Word) : Bool := decide (0 < v.toInt)

/-- The test of the standalone `rcv` (R94): non-zero, of either sign. -/
def isNonZero (v : Word) : Bool := decide (v ≠ 0)

end Sys2Proof.Machine
end

