-- ==== Sys2Proof/Machine/Operands.lean ====
section
/-! DEFINITION. The operand forms (R8, R47): a register of the executing unit, or a literal. There is no other. -/

namespace Sys2Proof.Machine

/-- `resolve(operand)` (R8): the literal, or the executing unit's register. It reads state and writes none. -/
def State.resolve (s : State) : Operand → Word
  | .reg i => s.readReg i
  | .lit v => v

end Sys2Proof.Machine
end

