-- ==== Sys2Proof/Machine/Arith.lean ====
section
/-! DEFINITION. Data movement and integer arithmetic: `set`, `add`, `mul`, `mod` (R75 to R84). They are the same in both modes. -/

namespace Sys2Proof.Machine

/-- Wrapping addition (R77): the sum in the mathematical integers, then `wrap64`. -/
def addWrap (a b : Word) : Word := wrap64 (a.toInt + b.toInt)

/-- Wrapping multiplication (R78): the product in the mathematical integers, then `wrap64`. -/
def mulWrap (a b : Word) : Word := wrap64 (a.toInt * b.toInt)

/-- `trem(a, b)` in the mathematical integers (R7, R82): `a - b * trunc(a / b)`. -/
def tremInt (a b : Int) : Int := a - b * a.tdiv b

/-- The truncating remainder as an int64 (R79). -/
def trem (a b : Word) : Word := wrap64 (tremInt a.toInt b.toInt)

/-- `x[r] <- v; pc <- pc + 1` (R75), the common end of the family. -/
def State.writeAndAdvance (s : State) (r : RegIdx) (v : Word) : State := (s.writeReg r v).advance

/-- `set r x` (R76). -/
def execSet (r : RegIdx) (x : Operand) (s : State) : Answer :=
  .next (s.writeAndAdvance r (s.resolve x))

/-- `add r x` (R77). -/
def execAdd (r : RegIdx) (x : Operand) (s : State) : Answer :=
  .next (s.writeAndAdvance r (addWrap (s.readReg r) (s.resolve x)))

/-- `mul r x` (R78). -/
def execMul (r : RegIdx) (x : Operand) (s : State) : Answer :=
  .next (s.writeAndAdvance r (mulWrap (s.readReg r) (s.resolve x)))

/-- `mod r x` (R79): a zero divisor takes the fault ModByZero at this pc, with nothing written (R123). -/
def execMod (r : RegIdx) (x : Operand) (s : State) : Answer :=
  if s.resolve x = 0 then .next (s.raise .modByZero s.cur.pc)
  else .next (s.writeAndAdvance r (trem (s.readReg r) (s.resolve x)))

end Sys2Proof.Machine
end

