-- ==== Sys2Proof/Machine/Comm.lean ====
section
/-! DEFINITION. Communication: `snd` and `rcv`, whose meaning depends on the run's mode (R90 to R99). -/

namespace Sys2Proof.Machine

/-- `snd x` in standalone mode (R91): remember the value. -/
def sndStandalone (v : Word) (s : State) : State := (s.setLsv v).advance

/-- `snd x` in cooperative mode (R92): push it, count it. -/
def sndCooperative (v : Word) (s : State) : State := ((s.push v).countSent).advance

/-- `snd x` (R90). -/
def execSnd (x : Operand) (s : State) : Answer :=
  match s.mode with
  | .standalone => .next (sndStandalone (s.resolve x) s)
  | .cooperative => .next (sndCooperative (s.resolve x) s)

/-- `rcv r` in standalone mode (R94): a non-zero register recovers the last value sent and halts the unit, with the pc unchanged. -/
def rcvStandalone (r : RegIdx) (s : State) : State :=
  if isNonZero (s.readReg r) then s.latchFrv.setUstate .halted
  else s.advance

/-- `rcv r` in cooperative mode (R95): pop the inbound channel into the register, or suspend. -/
def rcvCooperative (r : RegIdx) (s : State) : State :=
  match s.popInbound with
  | some (v, s') => (s'.writeReg r v).advance
  | none => s.setUstate .suspended

/-- `rcv r` (R93). -/
def execRcv (r : RegIdx) (s : State) : Answer :=
  match s.mode with
  | .standalone => .next (rcvStandalone r s)
  | .cooperative => .next (rcvCooperative r s)

end Sys2Proof.Machine
end

