-- ==== Sys2Proof/Machine/Jump.lean ====
section
/-! DEFINITION. Control transfer: `jgz` (R85 to R89). It is the same in both modes. -/

namespace Sys2Proof.Machine

/-- `jgz x y` (R86): taken, the target is relative to this `jgz` and wraps; not taken, the pc advances by 1. -/
def execJgz (x y : Operand) (s : State) : Answer :=
  if isPositive (s.resolve x) then .next (s.retire (wrap64 (s.cur.pc.toInt + (s.resolve y).toInt)))
  else .next s.advance

end Sys2Proof.Machine
end

