-- ==== Sys2Proof/Machine/Dispatch.lean ====
section
/-! DEFINITION. The meaning of each instruction on the executing unit, one arm per constructor (R67: dispatch is on the opcode alone).
Log entry 14. -/

namespace Sys2Proof.Machine

def exec (i : Instr) (s : State) : Host.Outcome State Fault Refusal :=
  match i with
  | .snd x => Sys2Proof.Machine.execSnd x s
  | .set r x => Sys2Proof.Machine.execSet r x s
  | .add r x => Sys2Proof.Machine.execAdd r x s
  | .mul r x => Sys2Proof.Machine.execMul r x s
  | .mod r x => Sys2Proof.Machine.execMod r x s
  | .rcv r => Sys2Proof.Machine.execRcv r s
  | .jgz x y => Sys2Proof.Machine.execJgz x y s

end Sys2Proof.Machine
end

