-- ==== Sys2Proof/Machine/Run.lean ====
section
/-! DEFINITION. The steps of the machine around the instructions: the validation step (R70), the step of one unit (R66), the
standalone step (R71), the scheduler step (R102), and which of them is enabled (R65). -/

namespace Sys2Proof.Machine

/-- The validation step (R70): the whole program is decoded before any instruction executes; the first invalid word raises its
fault, and otherwise the run begins. -/
def validationStep (s : State) : State :=
  match firstInvalid s.prog 0 with
  | some (a, f) => s.raise (.ofDecode f) (BitVec.ofNat 64 a)
  | none => { s with phase := .run }

/-- The outcome of an instruction that has just been executed (R66), read from the state it left: a fault set the phase, a
suspension the unit's state, and every other instruction is `Executed`. Log entry 10. -/
def outcomeAfter (s : State) : UnitOutcome :=
  if s.phase = .fault then .fault
  else if s.cur.ustate = .suspended then .suspend
  else .executed

/-- `UnitStep(k)` for the executing unit (R66): idle when halted, the bounds check before any fetch, then fetch, decode (R67) and
execute. -/
def unitStep (s : State) : Host.Outcome (UnitOutcome × State) Fault Refusal :=
  if s.cur.ustate = .halted then .next (.idle, s)
  else
    match s.fetch s.cur.pc with
    | none => .next (.halt, s.setUstate .halted)
    | some w =>
      match decode w with
      | .error _ => .fault .undecodableWord
      | .ok i =>
        match exec i s with
        | .next t => .next (outcomeAfter t, t)
        | .fault f => .fault f
        | .refused r => .refused r

/-- The standalone step (R71). The fault of a faulting instruction was raised by the instruction itself (log entry 11). -/
def standaloneStep (s : State) : Answer :=
  if s.u0.ustate = .halted then .next (s.finish s.u0.frv s.u0.frvLatched)
  else
    match unitStep s with
    | .next (_, t) => .next t
    | .fault f => .fault f
    | .refused r => .refused r

/-- The end of a turn (R102, R105, R106): the run ends when this turn and the one before it executed no instruction; otherwise the
other unit becomes active. -/
def endTurn (s : State) : State :=
  if s.turnProgress = false ∧ s.prevZero = true then s.finish s.u1.sentCount true
  else { s with prevZero := !s.turnProgress, turnProgress := false, active := s.active.other }

/-- The scheduler's bookkeeping after one step of the active unit (R102). -/
def afterUnitStep (o : UnitOutcome) (t : State) : State :=
  match o with
  | .executed => { t with turnProgress := true }
  | .fault => t
  | .suspend => endTurn t
  | .halt => endTurn t
  | .idle => endTurn t

/-- The scheduler step (R102). -/
def schedulerStep (s : State) : Answer :=
  match unitStep s with
  | .next (o, t) => .next (afterUnitStep o t)
  | .fault f => .fault f
  | .refused r => .refused r

/-- `MachineStep` (R65): the step that `phase` and `mode` enable. In DONE and FAULT none is, and the model stops by name. -/
def machineStep (s : State) : Answer :=
  match s.phase with
  | .check => .next (validationStep s)
  | .run =>
    match s.mode with
    | .standalone => standaloneStep s
    | .cooperative => schedulerStep s
  | .done => .fault .runDone
  | .fault => .fault .runFaulted

/-- The program with `w` where the executing unit fetches next: at its pc, if the pc is the index of a word or the first index past
the last one, and within the bound on a program's length; otherwise at index 0, with the pc there. Log entry 18. -/
def placeWord (s : State) (w : InstrWord) : State :=
  if 0 ≤ s.cur.pc.toInt ∧ s.cur.pc.toInt ≤ s.progLength ∧ s.cur.pc.toInt < Config.maxProgramLength then
    { s with prog := s.prog.take s.cur.pc.toInt.toNat ++ w :: s.prog.drop (s.cur.pc.toInt.toNat + 1) }
  else ({ s with prog := w :: s.prog.drop 1 }).setCur { s.cur with pc := 0 }

/-- A halted executing unit made runnable, as after reset. -/
def wakeUnit (s : State) : State :=
  if s.cur.ustate = .halted then s.setUstate .running else s

end Sys2Proof.Machine
end

