-- ==== Sys2Proof/Machine/Step.lean ====
section
/-! DEFINITION. The step of the machine (R65), and the host's way to have a given word be the next instruction. -/

namespace Sys2Proof.Machine

/-- One step of the machine (R65). -/
def step (s : State) : Host.Outcome State Fault Refusal := machineStep s

/-- `s` with the word whose low `nbits` bits are `w` (the rest 0) where the next step fetches: the program word in place, phase RUN
(a program that was loaded and validated), and the executing unit not halted. Log entry 6 says how a program comes to run. -/
def State.withFetchWord (s : State) (nbits w : Nat) : State :=
  wakeUnit (placeWord { s with phase := .run } (BitVec.ofNat 136 (w % 2 ^ nbits)))

end Sys2Proof.Machine
end

