-- ==== Sys2Proof/Machine/Text.lean ====
section
/-! DEFINITION. The text form of a program (R54 to R58), as lists of characters. Producing instructions from text is outside the
hardware (R5, C3): nothing of the machine's step uses this file. -/

namespace Sys2Proof.Machine

/-- A token of a line: its characters. -/
abbrev Token := List Char

/-- The mnemonics, lowercase as the source writes them (R54). -/
def mnemonic : Opcode → Token
  | .snd => ['s', 'n', 'd']
  | .set => ['s', 'e', 't']
  | .add => ['a', 'd', 'd']
  | .mul => ['m', 'u', 'l']
  | .mod => ['m', 'o', 'd']
  | .rcv => ['r', 'c', 'v']
  | .jgz => ['j', 'g', 'z']

/-- The fixed opcode vocabulary, in the source's order (R2). -/
def vocabulary : List Opcode := [.snd, .set, .add, .mul, .mod, .rcv, .jgz]

/-- The opcode of a first token, if it is in the vocabulary. -/
def opcodeOfToken (t : Token) : Option Opcode := vocabulary.find? fun o => decide (mnemonic o = t)

/-- The tokens of a line, separated by single spaces (R54): between two spaces in a row stands the empty token. -/
def tokensOf : List Char → List Token
  | [] => [[]]
  | c :: cs =>
    if c = ' ' then [] :: tokensOf cs
    else
      match tokensOf cs with
      | [] => [[c]]
      | t :: ts => (c :: t) :: ts

/-- The value of a decimal digit. -/
def digitValue (c : Char) : Option Nat :=
  if 48 ≤ c.toNat ∧ c.toNat ≤ 57 then some (c.toNat - 48) else none

/-- Digits read left to right onto `acc`; none where a character is no digit. -/
def readDigits : Nat → Token → Option Nat
  | acc, [] => some acc
  | acc, c :: cs =>
    match digitValue c with
    | some d => readDigits (10 * acc + d) cs
    | none => none

/-- One or more decimal digits (R56). -/
def readNat (t : Token) : Option Nat :=
  match t with
  | [] => none
  | c :: cs => readDigits 0 (c :: cs)

/-- The literal grammar (R56, D6): an optional `-`, then one or more digits. The range is checked with the instruction. -/
def readLiteral (t : Token) : Option Int :=
  match t with
  | [] => none
  | c :: cs => if c = '-' then (readNat cs).map fun n => -(n : Int) else (readNat (c :: cs)).map fun n => (n : Int)

/-- An operand token (R55): a single lowercase ASCII letter is a register, otherwise it must be a literal. -/
def readOperand (t : Token) : Option RawOperand :=
  match t with
  | [] => none
  | [c] =>
    if 97 ≤ c.toNat ∧ c.toNat ≤ 122 then some (.reg (c.toNat - 97)) else (readLiteral [c]).map .lit
  | c :: d :: cs => (readLiteral (c :: d :: cs)).map .lit

/-- The operand tokens of a line (R57): at most two, each an operand. -/
def readOperands (o : Opcode) (ts : List Token) : Except DecodeFault Instr :=
  match ts with
  | [] => RawInstr.check ⟨o, none, none⟩
  | [a] =>
    match readOperand a with
    | some x => RawInstr.check ⟨o, some x, none⟩
    | none => .error .malformedOperand
  | [a, b] =>
    match readOperand a, readOperand b with
    | some x, some y => RawInstr.check ⟨o, some x, some y⟩
    | none, _ => .error .malformedOperand
    | some _, none => .error .malformedOperand
  | _ :: _ :: _ :: _ => .error .malformedOperand

/-- A line's tokens as an instruction (R57): the first token's error comes first. A line without a token is an unknown opcode
(DESIGN CHOICE, log entry 16). -/
def readTokens (ts : List Token) : Except DecodeFault Instr :=
  match ts with
  | [] => .error .unknownOpcode
  | t :: rest =>
    match opcodeOfToken t with
    | some o => readOperands o rest
    | none => .error .unknownOpcode

/-- A line of text as an instruction (R54 to R57). -/
def readLine (line : List Char) : Except DecodeFault Instr := readTokens (tokensOf line)

/-- The loader's word for a line (R57): the instruction's encoding, or the test bench's word for each error. -/
def loaderWord (line : List Char) : InstrWord :=
  match readLine line with
  | .ok i => encode i
  | .error .unknownOpcode => 0x3F
  | .error .malformedOperand => 0x2001

/-- A program of lines as words: line `i` is instruction index `i` (R54). -/
def loadText (lines : List (List Char)) : List InstrWord := lines.map loaderWord

/-! ## Printing (R58) -/

/-- The decimal digits of `n`, most significant first, at most `fuel` of them. -/
def decimal : Nat → Nat → Token
  | 0, _ => []
  | fuel + 1, n =>
    if n < 10 then [Char.ofNat (48 + n)] else decimal fuel (n / 10) ++ [Char.ofNat (48 + n % 10)]

/-- The shortest decimal form of an int64 (R58): its magnitude has at most 19 digits. -/
def printLiteral (v : Word) : Token :=
  if v.toInt < 0 then '-' :: decimal 20 v.toInt.natAbs else decimal 20 v.toInt.natAbs

/-- A register's letter (R11). -/
def registerLetter (i : RegIdx) : Char := Char.ofNat (97 + i.val)

/-- The canonical text of an operand (R58). -/
def printOperand : Operand → Token
  | .reg i => [registerLetter i]
  | .lit v => printLiteral v

/-- One operand after the mnemonic. -/
def printOne (o : Opcode) (a : Token) : List Char := mnemonic o ++ ' ' :: a

/-- Two operands after the mnemonic. -/
def printTwo (o : Opcode) (a b : Token) : List Char := mnemonic o ++ ' ' :: (a ++ ' ' :: b)

/-- The canonical text of an instruction (R58). -/
def printInstr : Instr → List Char
  | .snd x => printOne .snd (printOperand x)
  | .set r x => printTwo .set [registerLetter r] (printOperand x)
  | .add r x => printTwo .add [registerLetter r] (printOperand x)
  | .mul r x => printTwo .mul [registerLetter r] (printOperand x)
  | .mod r x => printTwo .mod [registerLetter r] (printOperand x)
  | .rcv r => printOne .rcv [registerLetter r]
  | .jgz x y => printTwo .jgz (printOperand x) (printOperand y)

end Sys2Proof.Machine
end

