-- ==== Sys2Proof/Safety.lean ====
section
/-! DEFINITION. The terms claims are made in: what an instruction leaves alone, which instruction is next, when a unit can execute
nothing more, runs and what is sent and received in them, and the invariant of the machine. -/

namespace Sys2Proof.Machine

/-! ## Frames -/

/-- Everything outside the executing unit and the channels is as before: the other unit, the program store word by word, and the
scheduler, run-control, fault and result fields. -/
structure SameOutside (s t : State) : Prop where
  otherUnit    : t.unit s.executing.other = s.unit s.executing.other
  fetch        : ∀ a, t.fetch a = s.fetch a
  progLength   : t.progLength = s.progLength
  active       : t.active = s.active
  turnProgress : t.turnProgress = s.turnProgress
  prevZero     : t.prevZero = s.prevZero
  mode         : t.mode = s.mode
  phase        : t.phase = s.phase
  faultCode    : t.faultCode = s.faultCode
  faultIndex   : t.faultIndex = s.faultIndex
  result       : t.result = s.result
  resultValid  : t.resultValid = s.resultValid

/-- Both channels are as before. -/
def SameChannels (s t : State) : Prop := ∀ k, t.chan k = s.chan k

/-- Every general register of a unit is as before. -/
def SameRegs (u v : ExecUnit) : Prop := ∀ i, v.reg i = u.reg i

/-- The mode-specific registers of a unit are as before (R15 to R17). -/
structure SameModeRegs (u v : ExecUnit) : Prop where
  lsv        : v.lsv = u.lsv
  frv        : v.frv = u.frv
  frvLatched : v.frvLatched = u.frvLatched
  sentCount  : v.sentCount = u.sentCount

/-- The executing unit completed an instruction that wrote `value` to register `r` and nothing else: pc + 1, RUNNING, every other
register and everything outside as before (R75). -/
structure WroteRegister (s t : State) (r : RegIdx) (value : Word) : Prop where
  written   : (t.unit s.executing).reg r = value
  otherRegs : ∀ i, i ≠ r → (t.unit s.executing).reg i = s.cur.reg i
  pc        : (t.unit s.executing).pc = wrap64 (s.cur.pc.toInt + 1)
  running   : (t.unit s.executing).ustate = .running
  modeRegs  : SameModeRegs s.cur (t.unit s.executing)
  channels  : SameChannels s t
  outside   : SameOutside s t

/-! ## The next instruction -/

/-- The instruction at index `a`, if there is a word there and it decodes. -/
def State.instrAt (s : State) (a : Word) : Option Instr :=
  match s.fetch a with
  | none => none
  | some w =>
    match decode w with
    | .ok i => some i
    | .error _ => none

/-- The instruction the next step executes: in phase RUN, with the executing unit not halted, the one at its pc. -/
def State.pending (s : State) : Option Instr :=
  if s.phase = .run ∧ s.cur.ustate ≠ .halted then s.instrAt s.cur.pc else none

/-- Whether an instruction is a `rcv`. -/
def isRcv : Option Instr → Bool
  | some (.rcv _) => true
  | some (.snd _) => false
  | some (.set _ _) => false
  | some (.add _ _) => false
  | some (.mul _ _) => false
  | some (.mod _ _) => false
  | some (.jgz _ _) => false
  | none => false

/-- Unit `k` is at a `rcv` (R18). -/
def State.atRcv (s : State) (k : UnitId) : Bool := isRcv (s.instrAt (s.unit k).pc)

/-- Unit `k` can execute nothing as things stand (R110): it is halted, or at a `rcv` with its inbound channel empty. -/
def State.blocked (s : State) (k : UnitId) : Bool :=
  decide ((s.unit k).ustate = .halted) || (s.atRcv k && (s.chan k.other).isEmpty)

/-- Every word of the program decodes. -/
def programValid (prog : Memory) : Bool := prog.all wordOk

/-- Whether a word is an instruction other than `snd` and `rcv`. -/
def silentWord (w : InstrWord) : Bool :=
  match decode w with
  | .ok i => i.silent
  | .error _ => false

/-! ## Runs -/

/-- `n` steps of the machine, stopping where no step is enabled. -/
def runSteps : Nat → State → Answer
  | 0, s => .next s
  | n + 1, s =>
    match step s with
    | .next t => runSteps n t
    | .fault f => .fault f
    | .refused r => .refused r

/-- What unit `k` sends in the next step: the value of its `snd`, in either mode (R91, R92). -/
def State.sends (s : State) (k : UnitId) : List Word :=
  match s.pending with
  | some (.snd x) => if s.executing = k then [s.resolve x] else []
  | _ => []

/-- What unit `k` receives in the next step: the head of its inbound channel, at a cooperative `rcv` (R95). -/
def State.receives (s : State) (k : UnitId) : List Word :=
  match s.pending with
  | some (.rcv _) => if s.mode = .cooperative ∧ s.executing = k then (s.chan k.other).take 1 else []
  | _ => []

/-- The values unit `k` sends in the next `n` steps, in order. -/
def sentIn (k : UnitId) : Nat → State → List Word
  | 0, _ => []
  | n + 1, s =>
    match step s with
    | .next t => s.sends k ++ sentIn k n t
    | .fault _ => []
    | .refused _ => []

/-- The values unit `k` receives in the next `n` steps, in order. -/
def receivedIn (k : UnitId) : Nat → State → List Word
  | 0, _ => []
  | n + 1, s =>
    match step s with
    | .next t => s.receives k ++ receivedIn k n t
    | .fault _ => []
    | .refused _ => []

/-- `Turn` of the executing unit (R109), within `fuel` steps: the number of `Executed` outcomes before another outcome, and the
state then. None where the turn does not end in that many steps, or ends in a fault. -/
def unitTurn : Nat → State → Option (Nat × State)
  | 0, _ => none
  | fuel + 1, s =>
    match unitStep s with
    | .next (.executed, t) => (unitTurn fuel t).map fun r => (r.1 + 1, r.2)
    | .next (.fault, _) => none
    | .next (.suspend, t) => some (0, t)
    | .next (.halt, t) => some (0, t)
    | .next (.idle, t) => some (0, t)
    | .fault _ => none
    | .refused _ => none

/-! ## The invariant -/

/-- What holds in every state from reset on: the program is within its bound (R31) and valid once the run began (R67); the fault
record stands exactly in phase FAULT (R21) and a result only in DONE (R22); a suspended unit is a cooperative one at a `rcv`
(R18); a latched unit is a halted standalone one (R16); and the scheduler's memory of an empty turn is true: the unit whose
turn was empty is still blocked, and when the run is over both are (R110). -/
structure State.Inv (s : State) : Prop where
  progBound     : Memory.wf s.prog = true
  progValid     : s.phase = .run ∨ s.phase = .done → programValid s.prog = true
  faultRecord   : s.faultCode = .none ↔ s.phase ≠ .fault
  resultInDone  : s.resultValid = true → s.phase = .done
  suspendedAt   : ∀ k, (s.unit k).ustate = .suspended → s.mode = .cooperative ∧ s.atRcv k = true
  latchedHalted : ∀ k, (s.unit k).frvLatched = true → s.mode = .standalone ∧ (s.unit k).ustate = .halted
  emptyTurn     : s.mode = .cooperative → s.prevZero = true → s.turnProgress = false → s.blocked s.active.other = true
  doneBlocked   : s.mode = .cooperative → s.phase = .done → ∀ k, s.blocked k = true

end Sys2Proof.Machine
end

