-- ==== Sys2Proof/Certificates/Slice0/Obligations.lean ====
section
/-! DEFINITION. The statements for the provers, each from the spec's numbered rules. A statement about an instruction is about
`exec` on every state; `s.executing` is the unit that executes, `s.cur` its state before, `t.unit s.executing` after. -/

open Sys2Proof Sys2Proof.Machine

/-! ## Encoding -/

/-- R45: the word is the sum of its fields at their places, each field reads back, and a kind bit tells a literal from a register.
-/
def Obligations.WordIsSumOfFields : Prop :=
  (∀ (k : Bool) (p : Word) (o : Operand), decodeOperand k p = some o →
    (k = true ↔ ∃ v, o = .lit v) ∧ (k = false ↔ ∃ r, o = .reg r)) ∧
  ∀ (opc : BitVec 6) (k1 k2 : BitVec 1) (p1 p2 : Word),
    (mkWord opc k1 p1 k2 p2).toNat
      = opc.toNat + k1.toNat * 2 ^ 6 + k2.toNat * 2 ^ 7 + p1.toNat * 2 ^ 8 + p2.toNat * 2 ^ 72 ∧
    (mkWord opc k1 p1 k2 p2).opc = opc ∧
    (mkWord opc k1 p1 k2 p2).k1 = decide (k1 = 1) ∧
    (mkWord opc k1 p1 k2 p2).k2 = decide (k2 = 1) ∧
    (mkWord opc k1 p1 k2 p2).p1 = p1 ∧
    (mkWord opc k1 p1 k2 p2).p2 = p2

/-- The encodings (R53, which the spec marks as derived from R48 and R51), and that encode and decode are inverse to each other on
instructions and valid words. -/
def Obligations.EncodeAndDecodeAgree : Prop :=
  (∀ i, decode (encode i) = .ok i) ∧
  (∀ w i, decode w = .ok i → encode i = w) ∧
  (∀ (opc : BitVec 6) (k1 k2 : BitVec 1) (p1 p2 : Word), (mkWord opc k1 p1 k2 p2).toNat
    = opc.toNat + k1.toNat * 2 ^ 6 + k2.toNat * 2 ^ 7 + p1.toNat * 2 ^ 8 + p2.toNat * 2 ^ 72) ∧
  (∀ r : RegIdx, (Operand.reg r).kind = 0 ∧ ((Operand.reg r).payload).toNat = r.val) ∧
  (∀ v, (Operand.lit v).kind = 1 ∧ (Operand.lit v).payload = v) ∧
  (∀ x, encode (.snd x) = mkWord 0 x.kind x.payload 0 0) ∧
  (∀ (r : RegIdx) x, encode (.set r x) = mkWord 1 0 (Operand.reg r).payload x.kind x.payload) ∧
  (∀ (r : RegIdx) x, encode (.add r x) = mkWord 2 0 (Operand.reg r).payload x.kind x.payload) ∧
  (∀ (r : RegIdx) x, encode (.mul r x) = mkWord 3 0 (Operand.reg r).payload x.kind x.payload) ∧
  (∀ (r : RegIdx) x, encode (.mod r x) = mkWord 4 0 (Operand.reg r).payload x.kind x.payload) ∧
  (∀ r : RegIdx, encode (.rcv r) = mkWord 5 0 (Operand.reg r).payload 0 0) ∧
  (∀ x y, encode (.jgz x y) = mkWord 6 x.kind x.payload y.kind y.payload)

/-- R52: the complete list of words that are not instructions, with the fault of each. -/
def Obligations.InvalidWordsAreExactlyListed : Prop :=
  ∀ w : InstrWord,
    let badReg (k : Bool) (p : Word) : Prop :=
      k = false ∧ (p.extractLsb' 5 59 ≠ 0 ∨ 26 ≤ (p.extractLsb' 0 5).toNat)
    (decode w = .error .unknownOpcode ↔ 7 ≤ w.opc.toNat) ∧
    (decode w = .error .malformedOperand ↔
      w.opc.toNat ≤ 6 ∧
        (badReg w.k1 w.p1 ∨
         ((w.opc.toNat = 1 ∨ w.opc.toNat = 2 ∨ w.opc.toNat = 3 ∨ w.opc.toNat = 4 ∨ w.opc.toNat = 6) ∧ badReg w.k2 w.p2) ∨
         ((1 ≤ w.opc.toNat ∧ w.opc.toNat ≤ 5) ∧ w.k1 = true) ∨
         ((w.opc.toNat = 0 ∨ w.opc.toNat = 5) ∧ (w.k2 = true ∨ w.p2 ≠ 0))))

/-- The header byte of each form, and that no valid word has another (R50, which the spec marks as derived from R45 and R49). -/
def Obligations.HeaderByteOfEachForm : Prop :=
  (∀ r, (encode (.snd (.reg r))).extractLsb' 0 8 = (0x00 : BitVec 8)) ∧
  (∀ v, (encode (.snd (.lit v))).extractLsb' 0 8 = (0x40 : BitVec 8)) ∧
  (∀ r r', (encode (.set r (.reg r'))).extractLsb' 0 8 = (0x01 : BitVec 8)) ∧
  (∀ r v, (encode (.set r (.lit v))).extractLsb' 0 8 = (0x81 : BitVec 8)) ∧
  (∀ r r', (encode (.add r (.reg r'))).extractLsb' 0 8 = (0x02 : BitVec 8)) ∧
  (∀ r v, (encode (.add r (.lit v))).extractLsb' 0 8 = (0x82 : BitVec 8)) ∧
  (∀ r r', (encode (.mul r (.reg r'))).extractLsb' 0 8 = (0x03 : BitVec 8)) ∧
  (∀ r v, (encode (.mul r (.lit v))).extractLsb' 0 8 = (0x83 : BitVec 8)) ∧
  (∀ r r', (encode (.mod r (.reg r'))).extractLsb' 0 8 = (0x04 : BitVec 8)) ∧
  (∀ r v, (encode (.mod r (.lit v))).extractLsb' 0 8 = (0x84 : BitVec 8)) ∧
  (∀ r, (encode (.rcv r)).extractLsb' 0 8 = (0x05 : BitVec 8)) ∧
  (∀ r r', (encode (.jgz (.reg r) (.reg r'))).extractLsb' 0 8 = (0x06 : BitVec 8)) ∧
  (∀ v r, (encode (.jgz (.lit v) (.reg r))).extractLsb' 0 8 = (0x46 : BitVec 8)) ∧
  (∀ r v, (encode (.jgz (.reg r) (.lit v))).extractLsb' 0 8 = (0x86 : BitVec 8)) ∧
  (∀ v v', (encode (.jgz (.lit v) (.lit v'))).extractLsb' 0 8 = (0xC6 : BitVec 8)) ∧
  (∀ w i, decode w = .ok i →
    (w.extractLsb' 0 8 : BitVec 8) ∈
      [0x00, 0x40, 0x01, 0x81, 0x02, 0x82, 0x03, 0x83, 0x04, 0x84, 0x05, 0x06, 0x46, 0x86, 0xC6])

/-- Words written out from the spec's vectors V-ENC and V-BAD decode as listed there. -/
def Obligations.SpecWordsDecode : Prop :=
  decode 0x0000000000000000000000000000001900 = .ok (.snd (.reg 25)) ∧
  decode 0xFFFFFFFFFFFFFFEF000000000000000F81 = .ok (.set 15 (.lit (-17))) ∧
  decode 0x8000000000000000000000000000000082 = .ok (.add 0 (.lit (-9223372036854775808))) ∧
  decode 0x0000000000000000000000000000000103 = .ok (.mul 1 (.reg 0)) ∧
  decode 0x0000000000000003000000000000000204 = .ok (.mod 2 (.reg 3)) ∧
  decode 0x0000000000000000000000000000001905 = .ok (.rcv 25) ∧
  decode 0x000000000000000F000000000000000546 = .ok (.jgz (.lit 5) (.reg 15)) ∧
  decode 0x0000000000000000000000000000001A08 = .error .unknownOpcode ∧
  decode 0x0000000000000000000000000000001A01 = .error .malformedOperand

/-- The byte image (R46): a word's bytes least significant first, word `i` of a program at bytes `17*i` to `17*i + 16`, and the
image read back. -/
def Obligations.ByteImageIsLittleEndian : Prop :=
  (∀ (prog : List InstrWord) (i j : Nat), j < 17 →
    (programImage prog)[17 * i + j]? = prog[i]?.map fun w => w.extractLsb' (8 * j) 8) ∧
  (∀ prog : List InstrWord, (programImage prog).length = 17 * prog.length ∧ programOfImage (programImage prog) = some prog)

/-- An instruction's bytes decode to it, with the bytes after it left over. That fewer than 17 bytes are refused, under the name
`truncated`, is the model's choice (log entry 22): R46 does not speak of them. -/
def Obligations.BytesDecodeToInstruction : Prop :=
  (∀ i rest, decodeBytes (wordBytes (encode i) ++ rest) = .ok (i, rest)) ∧
  (∀ bs, decodeBytes bs = .error .truncated ↔ bs.length < 17)

/-- Decoding the canonical text gives back the instruction (R58, which the spec marks as derived from R54 to R56). -/
def Obligations.CanonicalTextReadsBack : Prop :=
  ∀ i, readLine (printInstr i) = .ok i

/-- A word placed with `withFetchWord` is the next instruction, whatever the state was. That operation and the place it gives the word
are the model's choice (log entries 6 and 18): no rule of the spec places a word. -/
def Obligations.PlacedWordIsNext : Prop :=
  ∀ (s : State) (i : Instr), (s.withFetchWord 136 (encode i).toNat).pending = some i

/-! ## Data movement and arithmetic -/

/-- R76: `set` copies its operand, advances, and changes nothing else. -/
def Obligations.SetCopiesOperand : Prop :=
  ∀ (r : RegIdx) (x : Operand) (s : State),
    (encode (.set r x)).opc = 1 ∧
    ∃ t, exec (.set r x) s = .next t ∧ WroteRegister s t r (s.resolve x)

/-- R77: `add` writes the sum wrapped into an int64, advances, and changes nothing else. -/
def Obligations.AddWrapsSum : Prop :=
  ∀ (r : RegIdx) (x : Operand) (s : State),
    (encode (.add r x)).opc = 2 ∧
    ∃ t v, exec (.add r x) s = .next t ∧ WroteRegister s t r v ∧
      v.toInt = ((s.readReg r).toInt + (s.resolve x).toInt + 2 ^ 63) % 2 ^ 64 - 2 ^ 63

/-- R78: `mul` writes the low 64 bits of the product, advances, and changes nothing else. -/
def Obligations.MulWrapsProduct : Prop :=
  ∀ (r : RegIdx) (x : Operand) (s : State),
    (encode (.mul r x)).opc = 3 ∧
    ∃ t v, exec (.mul r x) s = .next t ∧ WroteRegister s t r v ∧
      v.toInt = ((s.readReg r).toInt * (s.resolve x).toInt + 2 ^ 63) % 2 ^ 64 - 2 ^ 63

/-- R79: `mod` writes the truncating remainder where the divisor is not zero, and otherwise takes the fault ModByZero with no
register and no pc changed. -/
def Obligations.ModTruncatesOrFaults : Prop :=
  ∀ (r : RegIdx) (x : Operand) (s : State),
    (encode (.mod r x)).opc = 4 ∧
    (s.resolve x ≠ 0 →
      ∃ t v, exec (.mod r x) s = .next t ∧ WroteRegister s t r v ∧
        v.toInt = (s.readReg r).toInt - (s.resolve x).toInt * (s.readReg r).toInt.tdiv (s.resolve x).toInt ∧
        v.toInt.natAbs < (s.resolve x).toInt.natAbs ∧
        (v.toInt = 0 ∨ (0 < v.toInt ↔ 0 < (s.readReg r).toInt))) ∧
    (s.resolve x = 0 →
      ∃ t, exec (.mod r x) s = .next t ∧ t = s.raise .modByZero s.cur.pc ∧ (∀ k, t.unit k = s.unit k) ∧ SameChannels s t ∧
        t.phase = .fault ∧ t.faultCode = .modByZero ∧ t.faultIndex = s.cur.pc ∧ t.resultValid = false)

/-- R84: where source and destination are one register, the old value is used throughout. -/
def Obligations.SameRegisterUsesOldValue : Prop :=
  ∀ (a : RegIdx) (s : State),
    (∃ t, exec (.set a (.reg a)) s = .next t ∧ WroteRegister s t a (s.readReg a)) ∧
    (∃ t, exec (.add a (.reg a)) s = .next t ∧ WroteRegister s t a (wrap64 (2 * (s.readReg a).toInt))) ∧
    (∃ t, exec (.mul a (.reg a)) s = .next t ∧ WroteRegister s t a (wrap64 ((s.readReg a).toInt * (s.readReg a).toInt))) ∧
    (s.readReg a ≠ 0 → ∃ t, exec (.mod a (.reg a)) s = .next t ∧ WroteRegister s t a 0) ∧
    (s.readReg a = 0 → ∃ t, exec (.mod a (.reg a)) s = .next t ∧ t.phase = .fault ∧ t.faultCode = .modByZero)

/-- The algebra of wrapping arithmetic (R81): commutative, associative, distributive, with its neutral elements. -/
def Obligations.WrappingArithmeticLaws : Prop :=
  ∀ a b c : Word,
    addWrap a b = addWrap b a ∧ addWrap (addWrap a b) c = addWrap a (addWrap b c) ∧
    mulWrap a b = mulWrap b a ∧ mulWrap a (addWrap b c) = addWrap (mulWrap a b) (mulWrap a c) ∧
    addWrap a 0 = a ∧ mulWrap a 1 = a ∧ mulWrap a 0 = 0 ∧ mulWrap a (-1) = wrap64 (-a.toInt)

/-- The law of the truncating remainder (R82), and that it is decided by the divisor's magnitude: `a = b * trunc(a / b) + trem(a,
b)`, with no wrap in the remainder. -/
def Obligations.RemainderLaw : Prop :=
  ∀ a b : Word, b ≠ 0 →
    a.toInt = b.toInt * a.toInt.tdiv b.toInt + (trem a b).toInt ∧
    (trem a (wrap64 (-b.toInt))).toInt = (trem a b).toInt ∧
    (-9223372036854775808 < a.toInt → (trem (wrap64 (-a.toInt)) b).toInt = -(trem a b).toInt)

/-- R83: INT64_MIN mod -1 writes 0 and takes no fault. -/
def Obligations.MinModMinusOneIsZero : Prop :=
  ∀ (r : RegIdx) (x : Operand) (s : State),
    (s.readReg r).toInt = -(2 ^ 63) → (s.resolve x).toInt = -1 →
    ∃ t, exec (.mod r x) s = .next t ∧ WroteRegister s t r 0 ∧ t.faultCode = s.faultCode

/-! ## Control transfer -/

/-- R86: `jgz` moves the pc by its second operand where its first is positive, else by 1, and changes nothing else. -/
def Obligations.JgzJumpsIfPositive : Prop :=
  ∀ (x y : Operand) (s : State),
    (encode (.jgz x y)).opc = 6 ∧
    ∃ t, exec (.jgz x y) s = .next t ∧
      (0 < (s.resolve x).toInt → (t.unit s.executing).pc = s.cur.pc + s.resolve y) ∧
      ((s.resolve x).toInt ≤ 0 → (t.unit s.executing).pc = s.cur.pc + 1) ∧
      (t.unit s.executing).ustate = .running ∧
      SameRegs s.cur (t.unit s.executing) ∧ SameModeRegs s.cur (t.unit s.executing) ∧
      SameChannels s t ∧ SameOutside s t

/-- The wrapped target is inside the program exactly when the unbounded one is, and then they are equal; the unbounded one never
wraps at the low end, and where it wraps at the top both are outside (R87, which the spec marks as derived from R86, R66 and R31).
-/
def Obligations.WrappedTargetAgrees : Prop :=
  ∀ (s : State) (pc y : Word), Memory.wf s.prog = true → s.inProgram pc = true →
    (-(2 ^ 63) ≤ pc.toInt + y.toInt ∧ pc.toInt + y.toInt ≤ 2 ^ 64 - 3) ∧
    (pc.toInt + y.toInt ≤ 2 ^ 63 - 1 → (wrap64 (pc.toInt + y.toInt)).toInt = pc.toInt + y.toInt) ∧
    (2 ^ 63 ≤ pc.toInt + y.toInt → (wrap64 (pc.toInt + y.toInt)).toInt = pc.toInt + y.toInt - 2 ^ 64 ∧
      -(2 ^ 63) ≤ (wrap64 (pc.toInt + y.toInt)).toInt ∧ (wrap64 (pc.toInt + y.toInt)).toInt ≤ -3) ∧
    (s.inProgram (wrap64 (pc.toInt + y.toInt)) = true ↔ 0 ≤ pc.toInt + y.toInt ∧ pc.toInt + y.toInt < s.progLength) ∧
    (s.inProgram (wrap64 (pc.toInt + y.toInt)) = true → (wrap64 (pc.toInt + y.toInt)).toInt = pc.toInt + y.toInt) ∧
    (wrap64 (pc.toInt + 1)).toInt = pc.toInt + 1

/-- A taken jump with offset 0 repeats for ever: the state stays as it is through any number of steps (R73, R86, R112). -/
def Obligations.JumpToItselfNeverEnds : Prop :=
  ∀ (s : State) (x y : Operand) (n : Nat),
    s.pending = some (.jgz x y) → 0 < (s.resolve x).toInt → s.resolve y = 0 → s.cur.ustate = .running →
    (s.mode = .cooperative → s.turnProgress = true) →
    runSteps n s = .next s

/-! ## Communication -/

/-- R91: standalone `snd` remembers the value, advances, and changes nothing else. -/
def Obligations.StandaloneSndRemembers : Prop :=
  ∀ (x : Operand) (s : State), s.mode = .standalone →
    ∃ t, exec (.snd x) s = .next t ∧
      (t.unit s.executing).lsv = s.resolve x ∧
      (t.unit s.executing).pc = wrap64 (s.cur.pc.toInt + 1) ∧
      (t.unit s.executing).ustate = .running ∧
      SameRegs s.cur (t.unit s.executing) ∧
      (t.unit s.executing).frv = s.cur.frv ∧ (t.unit s.executing).frvLatched = s.cur.frvLatched ∧
      (t.unit s.executing).sentCount = s.cur.sentCount ∧
      SameChannels s t ∧ SameOutside s t

/-- R92: cooperative `snd` pushes onto the executing unit's own channel, counts, advances, and changes nothing else. -/
def Obligations.CooperativeSndPushes : Prop :=
  ∀ (x : Operand) (s : State), s.mode = .cooperative →
    ∃ t, exec (.snd x) s = .next t ∧
      t.chan s.executing = s.chan s.executing ++ [s.resolve x] ∧
      t.chan s.executing.other = s.chan s.executing.other ∧
      (t.unit s.executing).sentCount = s.cur.sentCount + 1 ∧
      (t.unit s.executing).pc = wrap64 (s.cur.pc.toInt + 1) ∧
      (t.unit s.executing).ustate = .running ∧
      SameRegs s.cur (t.unit s.executing) ∧
      (t.unit s.executing).lsv = s.cur.lsv ∧ (t.unit s.executing).frv = s.cur.frv ∧
      (t.unit s.executing).frvLatched = s.cur.frvLatched ∧
      SameOutside s t

/-- R94: standalone `rcv` of a non-zero register latches the last value sent and halts the unit with its pc unchanged, and the next
step ends the run with that value; of a zero register it only advances. -/
def Obligations.StandaloneRcvRecovers : Prop :=
  ∀ (r : RegIdx) (s : State), s.mode = .standalone →
    ∃ t, exec (.rcv r) s = .next t ∧
      (s.readReg r ≠ 0 →
        (t.unit s.executing).frv = (if s.cur.frvLatched = true then s.cur.frv else s.cur.lsv) ∧
        (t.unit s.executing).frvLatched = true ∧
        (t.unit s.executing).ustate = .halted ∧ (t.unit s.executing).pc = s.cur.pc ∧
        (s.phase = .run →
          ∃ u, step t = .next u ∧ u.phase = .done ∧ u.result = (t.unit s.executing).frv ∧ u.resultValid = true)) ∧
      (s.readReg r = 0 →
        (t.unit s.executing).frv = s.cur.frv ∧ (t.unit s.executing).frvLatched = s.cur.frvLatched ∧
        (t.unit s.executing).ustate = .running ∧ (t.unit s.executing).pc = wrap64 (s.cur.pc.toInt + 1)) ∧
      SameRegs s.cur (t.unit s.executing) ∧
      (t.unit s.executing).lsv = s.cur.lsv ∧ (t.unit s.executing).sentCount = s.cur.sentCount ∧
      SameChannels s t ∧ SameOutside s t

/-- R95: cooperative `rcv` pops the inbound channel into its register and advances; where the channel is empty it suspends the
unit and changes nothing else. -/
def Obligations.CooperativeRcvReceivesOrSuspends : Prop :=
  ∀ (r : RegIdx) (s : State), s.mode = .cooperative →
    ∃ t, exec (.rcv r) s = .next t ∧
      (∀ v rest, s.chan s.executing.other = v :: rest →
        (t.unit s.executing).reg r = v ∧ (∀ i, i ≠ r → (t.unit s.executing).reg i = s.cur.reg i) ∧
        t.chan s.executing.other = rest ∧
        (t.unit s.executing).ustate = .running ∧
        (t.unit s.executing).pc = wrap64 (s.cur.pc.toInt + 1)) ∧
      (s.chan s.executing.other = [] →
        t.unit s.executing = { s.cur with ustate := .suspended } ∧ t.chan s.executing.other = []) ∧
      t.chan s.executing = s.chan s.executing ∧
      SameModeRegs s.cur (t.unit s.executing) ∧ SameOutside s t

/-- A suspended unit at its `rcv` steps exactly as a running one does (R96). -/
def Obligations.SuspendedRetriesAsRunning : Prop :=
  ∀ (s : State) (r : RegIdx), s.mode = .cooperative → s.instrAt s.cur.pc = some (.rcv r) →
    unitStep (s.setUstate .suspended) = unitStep (s.setUstate .running)

/-- The FIFO law (R98, which the spec marks as derived from R92, R95 and R34): in every run, what a channel held and what its
writer sent is, in order, what its reader received and what the channel holds. -/
def Obligations.ChannelsAreFifo : Prop :=
  ∀ (n : Nat) (s t : State) (k : UnitId), s.mode = .cooperative → runSteps n s = .next t →
    s.chan k ++ sentIn k n s = receivedIn k.other n s ++ t.chan k

/-- In a cooperative run `sent_count` grows by the number of values the unit sent (R17); in standalone it stays. -/
def Obligations.SentCountCountsSends : Prop :=
  ∀ (n : Nat) (s t : State) (k : UnitId), runSteps n s = .next t →
    (s.mode = .cooperative →
      (t.unit k).sentCount = (s.unit k).sentCount + BitVec.ofNat 64 (sentIn k n s).length) ∧
    (s.mode = .standalone → (t.unit k).sentCount = (s.unit k).sentCount)

/-- Standalone recovery (R94, T3): the recovered value is the last one sent in the run before, or what `lsv` held at its start if
none was sent. -/
def Obligations.RecoveredValueIsLastSent : Prop :=
  ∀ (n : Nat) (s t : State), s.mode = .standalone → s.u0.frvLatched = false → runSteps n s = .next t →
    t.u0.frvLatched = true → t.u0.frv = (sentIn .u0 n s).getLastD s.u0.lsv

/-- A step touches a channel only as its ends allow (R33): the executing unit may push onto its own and pop the other. -/
def Obligations.ChannelEndsAreOwned : Prop :=
  ∀ s t : State, step s = .next t →
    (t.chan s.executing = s.chan s.executing ∨ ∃ v, t.chan s.executing = s.chan s.executing ++ [v]) ∧
    (t.chan s.executing.other = s.chan s.executing.other ∨ ∃ v, s.chan s.executing.other = v :: t.chan s.executing.other) ∧
    (s.mode = .standalone → SameChannels s t)

/-! ## Modes -/

/-- The instructions other than `snd` and `rcv` do the same in both modes (R75, R86): where the executing units are alike, so are
they after, and a fault is taken in one mode exactly when in the other. -/
def Obligations.SilentInstructionsIgnoreMode : Prop :=
  ∀ (i : Instr) (s c : State), i.silent = true → s.cur = c.cur → s.phase = .run → c.phase = .run →
    ∃ t d, exec i s = .next t ∧ exec i c = .next d ∧ t.unit s.executing = d.unit c.executing ∧
      t.phase = d.phase ∧ outcomeAfter t = outcomeAfter d

/-- A program without `snd` and `rcv` takes unit 0 through the same states in both modes (R99, the spec's own weaker form of the
source's property, marked as derived from R13, R71 and R106). -/
def Obligations.UnitZeroAgreesAcrossModes : Prop :=
  ∀ (n : Nat) (s c t : State), s.mode = .standalone → c.mode = .cooperative → c.active = .u0 →
    s.phase = c.phase → s.prog = c.prog → s.u0 = c.u0 → s.prog.all silentWord = true →
    runSteps n s = .next t → t.phase ≠ .done →
    ∃ d, runSteps n c = .next d ∧ d.u0 = t.u0

/-- The mode-specific registers of the other mode are inert (R15, R16, R17, D20). -/
def Obligations.OtherModesRegistersAreInert : Prop :=
  ∀ (s t : State) (k : UnitId), step s = .next t →
    (s.mode = .cooperative →
      (t.unit k).lsv = (s.unit k).lsv ∧ (t.unit k).frv = (s.unit k).frv ∧ (t.unit k).frvLatched = (s.unit k).frvLatched) ∧
    (s.mode = .standalone → (t.unit k).sentCount = (s.unit k).sentCount)

/-! ## The step -/

/-- Where the word at the executing unit's pc decodes, the step is that instruction's meaning, followed in cooperative mode by the
scheduler's bookkeeping on its outcome. That the outcome is `outcomeAfter t`, read from the state the instruction left, is the
model's (log entry 10): R66 has the instruction return it. `UnitStepOutcomes` says which outcome it is. -/
def Obligations.StepRunsDecodedInstruction : Prop :=
  ∀ (s : State) (w : InstrWord) (i : Instr), s.phase = .run → s.cur.ustate ≠ .halted →
    s.fetch s.cur.pc = some w → decode w = .ok i →
    (s.mode = .standalone → step s = exec i s) ∧
    (s.mode = .cooperative → ∃ t, exec i s = .next t ∧ step s = .next (afterUnitStep (outcomeAfter t) t))

/-- The bounds check (R66): a unit whose pc is outside the program halts, with no instruction executed and nothing of it changed but
its state. -/
def Obligations.UnitHaltsOutsideProgram : Prop :=
  ∀ s : State, s.cur.ustate ≠ .halted → ¬(0 ≤ s.cur.pc.toInt ∧ s.cur.pc.toInt < s.prog.length) →
    ∃ t, unitStep s = .next (.halt, t) ∧ t.unit s.executing = { s.cur with ustate := .halted } ∧
      SameChannels s t ∧ SameOutside s t

/-- The outcomes of a unit's step (R66), each by what the state before it shows: the outcome read back from the state after (log
entry 10) is the one the rules return. -/
def Obligations.UnitStepOutcomes : Prop :=
  ∀ (s t : State) (o : UnitOutcome), s.phase = .run → unitStep s = .next (o, t) →
    (o = .idle ↔ s.cur.ustate = .halted) ∧
    (o = .halt ↔ s.cur.ustate ≠ .halted ∧ s.inProgram s.cur.pc = false) ∧
    (o = .suspend ↔ s.mode = .cooperative ∧ s.chan s.executing.other = [] ∧ ∃ r, s.pending = some (.rcv r)) ∧
    (o = .fault ↔ ∃ r x, s.pending = some (.mod r x) ∧ s.resolve x = 0) ∧
    (o = .executed → (∃ i, s.pending = some i ∧ exec i s = .next t) ∧
      ((t.unit s.executing).ustate = .running ∨
        (s.mode = .standalone ∧ (t.unit s.executing).ustate = .halted ∧ ∃ r, s.pending = some (.rcv r) ∧ s.readReg r ≠ 0)))

/-- R71: the standalone step. Unit 1, the channels and the scheduler's fields keep their values; a halted unit 0 ends the run with
its recovered value, valid if one was latched; otherwise unit 0 steps. -/
def Obligations.StandaloneStepIsUnitZeros : Prop :=
  ∀ s t : State, s.phase = .run → s.mode = .standalone → step s = .next t →
    t.u1 = s.u1 ∧ SameChannels s t ∧
    t.active = s.active ∧ t.turnProgress = s.turnProgress ∧ t.prevZero = s.prevZero ∧
    (s.u0.ustate = .halted →
      t.phase = .done ∧ t.result = s.u0.frv ∧ t.resultValid = s.u0.frvLatched ∧ t.u0 = s.u0) ∧
    (s.u0.ustate ≠ .halted → ∃ o, unitStep s = .next (o, t) ∧ t.phase ≠ .done ∧
      (t.phase = .fault → t.faultCode = .modByZero ∧ t.faultIndex = s.u0.pc))

/-- R102, R106: the scheduler's bookkeeping on each outcome of the active unit's step. At the end of a turn, the run is over if neither
this turn nor the one before executed an instruction, with the second unit's count as its result; otherwise the detector
remembers whether this turn was empty and the other unit is active. An executed instruction is progress and changes nothing
else of the scheduler; a fault is raised; and no other step takes a cooperative run to DONE. -/
def Obligations.TwoEmptyTurnsEndTheRun : Prop :=
  ∀ (s u t : State) (o : UnitOutcome), s.phase = .run → s.mode = .cooperative → unitStep s = .next (o, u) → step s = .next t →
    (o = .suspend ∨ o = .halt ∨ o = .idle →
      (s.turnProgress = false ∧ s.prevZero = true →
        t.phase = .done ∧ t.result = s.u1.sentCount ∧ t.resultValid = true ∧
        t.active = s.active ∧ t.turnProgress = s.turnProgress ∧ t.prevZero = s.prevZero) ∧
      (s.turnProgress = true →
        t.phase = .run ∧ t.prevZero = false ∧ t.turnProgress = false ∧ t.active = s.active.other ∧
        t.result = s.result ∧ t.resultValid = s.resultValid) ∧
      (s.turnProgress = false ∧ s.prevZero = false →
        t.phase = .run ∧ t.prevZero = true ∧ t.turnProgress = false ∧ t.active = s.active.other ∧
        t.result = s.result ∧ t.resultValid = s.resultValid)) ∧
    (o = .executed →
      t.phase = .run ∧ t.turnProgress = true ∧ t.active = s.active ∧ t.prevZero = s.prevZero ∧
      t.result = s.result ∧ t.resultValid = s.resultValid) ∧
    (o = .fault → t = s.raise .modByZero s.cur.pc) ∧
    (t.phase = .done ↔ (o = .suspend ∨ o = .halt ∨ o = .idle) ∧ s.turnProgress = false ∧ s.prevZero = true) ∧
    (o ≠ .fault → t.faultCode = s.faultCode ∧ t.faultIndex = s.faultIndex) ∧
    (∀ k, t.unit k = u.unit k ∧ t.chan k = u.chan k) ∧ t.mode = s.mode ∧ t.prog = s.prog

/-- R101: a cooperative step changes only the active unit, and the turn passes only at a step that executed no instruction. -/
def Obligations.OnlyActiveUnitChanges : Prop :=
  ∀ s t : State, s.phase = .run → s.mode = .cooperative → step s = .next t →
    t.unit s.active.other = s.unit s.active.other ∧
    (t.active ≠ s.active → ∃ o u, unitStep s = .next (o, u) ∧ o ≠ .executed ∧ o ≠ .fault)

/-- R107: in cooperative mode no turn that follows none or a turn with progress ends the run, the first one among them: while the turn
goes on, no empty turn is remembered. Where both units at once attempt `rcv` on empty channels, the run ends after two steps. -/
def Obligations.FirstTurnCannotEndTheRun : Prop :=
  (∀ prog, (State.resetWith .cooperative prog).active = .u0 ∧ (State.resetWith .cooperative prog).turnProgress = false ∧
    (State.resetWith .cooperative prog).prevZero = false) ∧
  (∀ s t : State, s.phase = .run → s.mode = .cooperative → s.prevZero = false → step s = .next t →
    t.phase ≠ .done ∧ (t.active = s.active → t.prevZero = false)) ∧
  (∀ s : State, s.phase = .run → s.mode = .cooperative → s.turnProgress = false → s.prevZero = false →
    (∀ k, (s.unit k).ustate ≠ .halted ∧ s.atRcv k = true ∧ s.chan k = []) →
    ∃ t, runSteps 2 s = .next t ∧ t.phase = .done ∧ t.resultValid = true ∧ t.result = s.u1.sentCount)

/-- The turn-level loop (R109, which the spec marks as derived from R102) follows from the small steps: a turn of `m` executed
instructions is `m + 1` steps, and ends as the loop says. -/
def Obligations.TurnLoopFollowsFromSteps : Prop :=
  ∀ (fuel m : Nat) (s e : State), s.phase = .run → s.mode = .cooperative → s.turnProgress = false →
    unitTurn fuel s = some (m, e) →
    runSteps (m + 1) s = .next
      (if m = 0 ∧ s.prevZero = true then e.finish e.u1.sentCount true
       else { e with prevZero := decide (m = 0), turnProgress := false, active := s.active.other })

/-- R72: a halted unit stays as it is, and its step is idle. -/
def Obligations.HaltedUnitStaysHalted : Prop :=
  (∀ (s t : State) (k : UnitId), step s = .next t → (s.unit k).ustate = .halted → t.unit k = s.unit k) ∧
  (∀ s : State, s.cur.ustate = .halted → unitStep s = .next (.idle, s))

/-- The program store, its length and the mode never change (R31, R44, R20). -/
def Obligations.ProgramAndModeAreFixed : Prop :=
  ∀ (n : Nat) (s t : State), runSteps n s = .next t →
    t.mode = s.mode ∧ t.progLength = s.progLength ∧ ∀ a, t.fetch a = s.fetch a

/-- R70: the validation step. The lowest invalid word raises its fault and no instruction runs; a valid program starts the run;
nothing else changes. -/
def Obligations.ValidationPrecedesExecution : Prop :=
  ∀ s : State, s.phase = .check →
    ∃ t, step s = .next t ∧
      (∀ (a : Nat) (w : InstrWord) (f : DecodeFault), s.prog[a]? = some w → decode w = .error f →
        (∀ b v, b < a → s.prog[b]? = some v → ∃ i, decode v = .ok i) →
        t = { s with faultCode := .ofDecode f, faultIndex := BitVec.ofNat 64 a, resultValid := false, phase := .fault }) ∧
      ((∀ w ∈ s.prog, ∃ i, decode w = .ok i) → t = { s with phase := .run })

/-- Steps are enabled exactly in CHECK and RUN (R65): the machine does not stop of its own accord in either. That the step in DONE and
FAULT is a stop, under the names `runDone` and `runFaulted`, is the model's (log entry 7): R65 says that none is enabled. -/
def Obligations.StepEnabledExactlyBeforeTheEnd : Prop :=
  ∀ s : State, s.Inv →
    ((∃ t, step s = .next t) ↔ s.phase = .check ∨ s.phase = .run) ∧
    (s.phase = .done → step s = .fault .runDone) ∧ (s.phase = .fault → step s = .fault .runFaulted)

/-! ## Faults -/

/-- R124: `raise` writes the fault record and the phase, nothing else, and the machine stays there. -/
def Obligations.RaiseRecordsTheFault : Prop :=
  ∀ (s : State) (f : FaultCode) (a : Word),
    let t := s.raise f a
    t.faultCode = f ∧ t.faultIndex = a ∧ t.resultValid = false ∧ t.phase = .fault ∧
    (∀ k, t.unit k = s.unit k) ∧ SameChannels s t ∧ (∀ b, t.fetch b = s.fetch b) ∧ t.progLength = s.progLength ∧
    t.active = s.active ∧ t.turnProgress = s.turnProgress ∧ t.prevZero = s.prevZero ∧
    t.mode = s.mode ∧ t.result = s.result ∧
    (∀ u, step t ≠ .next u) ∧
    FaultCode.number .none = 0 ∧ FaultCode.number .unknownOpcode = 1 ∧
    FaultCode.number .malformedOperand = 2 ∧ FaultCode.number .modByZero = 3

/-- R123: a `mod` with a zero divisor ends the run in one step of either mode, by taking the fault (R124) and nothing else: FAULT, code
3, index the pc of the `mod`, and everything done before stays, the scheduler's fields among it. -/
def Obligations.ModByZeroEndsTheRun : Prop :=
  ∀ (s : State) (r : RegIdx) (x : Operand), s.pending = some (.mod r x) → s.resolve x = 0 →
    ∃ t, step s = .next t ∧ t = s.raise .modByZero s.cur.pc ∧
      t.phase = .fault ∧ t.faultCode.number = 3 ∧ t.faultIndex = s.cur.pc ∧ t.resultValid = false ∧ (∀ k, t.unit k = s.unit k) ∧ SameChannels s t ∧
      t.active = s.active ∧ t.turnProgress = s.turnProgress ∧ t.prevZero = s.prevZero ∧
      t.mode = s.mode ∧ t.result = s.result ∧ ∀ u, step t ≠ .next u

/-- In phase RUN the only fault is ModByZero, from a `mod` with a zero divisor (R67, R126, R128). -/
def Obligations.OnlyModByZeroFaultsInRun : Prop :=
  ∀ s t : State, s.phase = .run → step s = .next t → t.phase = .fault →
    t.faultCode = .modByZero ∧ ∃ r x, s.pending = some (.mod r x) ∧ s.resolve x = 0

/-! ## Reset and the host -/

/-- R27, R140: every field's value after the host's reset, from any state, in either mode, with any program. -/
def Obligations.HostResetValues : Prop :=
  ∀ (s : State) (m : Mode) (prog : Memory),
    let t := s.hostReset m prog
    (∀ k i, (t.unit k).reg i = if m = .cooperative ∧ i.val = 15 then k.identity else 0) ∧
    (∀ k, (t.unit k).pc = 0 ∧ (t.unit k).ustate = .running ∧ (t.unit k).lsv = Config.lsvReset ∧
      (t.unit k).frvLatched = false ∧ (t.unit k).sentCount = 0) ∧
    (∀ k, t.chan k = []) ∧ t.active = .u0 ∧ t.turnProgress = false ∧ t.prevZero = false ∧ t.mode = m ∧ t.phase = .check ∧
    t.faultCode.number = 0 ∧ t.faultIndex = 0 ∧ t.result = 0 ∧ t.resultValid = false ∧ t.prog = prog

/-- The constant `State.reset` is the host's reset with STANDALONE and the empty program (the model's choice, log entry 3), and three
steps later the run is over without a result. -/
def Obligations.ResetConstantIsEmptyStandaloneRun : Prop :=
  State.reset.mode = .standalone ∧ State.reset.prog = [] ∧ (∀ s : State, s.hostReset .standalone [] = State.reset) ∧
  ∃ t, runSteps 3 State.reset = .next t ∧ t.hostView = ⟨.done, none, none⟩

/-- What the host reads (R28, U2): in CHECK and RUN nothing but the phase; a result only in DONE and valid; no register, pc or
channel at any time. -/
def Obligations.HostSeesOnlyItsOutputs : Prop :=
  (∀ s t : State, s.phase = t.phase → s.faultCode = t.faultCode → s.faultIndex = t.faultIndex →
    s.resultValid = t.resultValid → (s.phase = .done ∧ s.resultValid = true → s.result = t.result) → s.hostView = t.hostView) ∧
  (∀ s : State, s.phase = .check ∨ s.phase = .run → s.hostView = ⟨s.phase, none, none⟩) ∧
  (∀ s : State, s.phase = .done → s.resultValid = true → s.hostView = ⟨.done, some s.result, none⟩) ∧
  (∀ s : State, s.phase = .fault → s.hostView = ⟨.fault, none, some (s.faultCode, s.faultIndex)⟩)

/-! ## The invariant -/

/-- The machine after reset meets the invariant, in either mode, with any program within the bound. -/
def Obligations.ResetMeetsInvariant : Prop :=
  (∀ (m : Mode) (prog : Memory), Memory.wf prog = true → (State.resetWith m prog).Inv) ∧ State.reset.Inv

/-- Every step keeps the invariant. -/
def Obligations.StepKeepsInvariant : Prop :=
  ∀ s t : State, s.Inv → step s = .next t → t.Inv

/-- The deadlock detector stops no run that could go on (R110, the spec's own inference): when a cooperative run ends, each unit
is halted or at a `rcv` with an empty inbound channel, and the result is the second unit's count. -/
def Obligations.DetectorStopsOnlyDeadRuns : Prop :=
  ∀ s t : State, s.Inv → s.mode = .cooperative → s.phase = .run → step s = .next t → t.phase = .done →
    (∀ k, t.blocked k = true) ∧ t.resultValid = true ∧ t.result = t.u1.sentCount

/-- The deadlock detector misses no dead run (R110, the spec's own inference): where neither unit can execute an instruction, the
run ends within three steps, with no register changed. -/
def Obligations.DeadRunsEndWithinThreeSteps : Prop :=
  ∀ s : State, s.mode = .cooperative → s.phase = .run →
    (∀ k, s.blocked k = true ∨ s.inProgram (s.unit k).pc = false) →
    ∃ n t, n ≤ 3 ∧ runSteps n s = .next t ∧ t.phase = .done ∧ t.resultValid = true ∧ t.result = s.u1.sentCount ∧
      ∀ k, SameRegs (s.unit k) (t.unit k) ∧ t.chan k = s.chan k
end

