-- ==== Sys2Proof/Laws/Arith.lean ====
section
/-! SUPPORT. What the arithmetic operations compute, in the mathematical integers. -/

namespace Sys2Proof.Machine

/-- The value of `wrap64`, by the formula of R7. -/
theorem wrap64_toInt (v : Int) : (wrap64 v).toInt = (v + 2 ^ 63) % 2 ^ 64 - 2 ^ 63 := by
  simp only [wrap64, BitVec.toInt_ofInt, Int.bmod]
  omega

/-- An integer that is an int64 is not changed by `wrap64`. -/
theorem wrap64_toInt_of_range {v : Int} (h1 : -(2 ^ 63) ≤ v) (h2 : v < 2 ^ 63) : (wrap64 v).toInt = v := by
  rw [wrap64_toInt]
  omega

theorem addWrap_eq (a b : Word) : addWrap a b = a + b := by
  simp only [addWrap, wrap64, BitVec.ofInt_add, BitVec.ofInt_toInt]

theorem mulWrap_eq (a b : Word) : mulWrap a b = a * b := by
  simp only [mulWrap, wrap64, BitVec.ofInt_mul, BitVec.ofInt_toInt]

theorem tremInt_eq (a b : Int) : tremInt a b = a.tmod b := by
  rw [tremInt, Int.tmod_def]

theorem toInt_ne_zero {b : Word} (h : b ≠ 0) : b.toInt ≠ 0 :=
  fun e => h (BitVec.eq_of_toInt_eq (by simpa using e))

/-- The remainder of two int64s is an int64: no wrap is needed (R79). -/
theorem trem_toInt {a b : Word} (h : b ≠ 0) : (trem a b).toInt = a.toInt.tmod b.toInt := by
  have hb := toInt_ne_zero h
  have hlt : (a.toInt.tmod b.toInt).natAbs < b.toInt.natAbs := by
    rw [Int.natAbs_tmod]
    exact Nat.mod_lt _ (by omega)
  have h1 := b.le_toInt
  have h2 := b.toInt_lt
  rw [trem, tremInt_eq]
  apply wrap64_toInt_of_range <;> omega

end Sys2Proof.Machine
end

