-- ==== Sys2Proof/Laws/State.lean ====
section
/-! SUPPORT. One small lemma per field per update of the state and of a unit, and how reads and writes of units and channels meet.
The simp normal form of a state written through the named operations is `setUnit`, `setChan` and `setCur` over a base state. -/

namespace Sys2Proof.Machine

@[simp] theorem UnitId.other_other (k : UnitId) : k.other.other = k := by cases k <;> rfl
@[simp] theorem UnitId.other_ne (k : UnitId) : k.other ≠ k := by cases k <;> decide
@[simp] theorem UnitId.ne_other (k : UnitId) : k ≠ k.other := by cases k <;> decide
theorem UnitId.eq_or_other (j k : UnitId) : j = k ∨ j = k.other := by cases j <;> cases k <;> decide

/-! ## A unit's registers -/

@[simp] theorem ExecUnit.setReg_pc (u : ExecUnit) (i v) : (u.setReg i v).pc = u.pc := rfl
@[simp] theorem ExecUnit.setReg_ustate (u : ExecUnit) (i v) : (u.setReg i v).ustate = u.ustate := rfl
@[simp] theorem ExecUnit.setReg_lsv (u : ExecUnit) (i v) : (u.setReg i v).lsv = u.lsv := rfl
@[simp] theorem ExecUnit.setReg_frv (u : ExecUnit) (i v) : (u.setReg i v).frv = u.frv := rfl
@[simp] theorem ExecUnit.setReg_frvLatched (u : ExecUnit) (i v) : (u.setReg i v).frvLatched = u.frvLatched := rfl
@[simp] theorem ExecUnit.setReg_sentCount (u : ExecUnit) (i v) : (u.setReg i v).sentCount = u.sentCount := rfl

/-- A register reads what was written to it last, and every other register as before (R11). -/
theorem ExecUnit.reg_setReg (u : ExecUnit) (i j : RegIdx) (v : Word) :
    (u.setReg i v).reg j = if i = j then v else u.reg j := by
  simp [ExecUnit.reg, ExecUnit.setReg, Vector.getElem_set, Fin.ext_iff]

@[simp] theorem ExecUnit.reg_setReg_self (u : ExecUnit) (i : RegIdx) (v : Word) : (u.setReg i v).reg i = v := by
  simp [ExecUnit.reg_setReg]

theorem ExecUnit.reg_setReg_ne (u : ExecUnit) {i j : RegIdx} (v : Word) (h : j ≠ i) :
    (u.setReg i v).reg j = u.reg j := by
  simp [ExecUnit.reg_setReg, Ne.symm h]

/-! ## Units and channels -/

@[simp] theorem State.unit_setUnit_self (s : State) (k u) : (s.setUnit k u).unit k = u := by cases k <;> rfl
@[simp] theorem State.unit_setUnit_other (s : State) (k u) : (s.setUnit k u).unit k.other = s.unit k.other := by cases k <;> rfl
@[simp] theorem State.unit_other_setUnit (s : State) (k u) : (s.setUnit k.other u).unit k = s.unit k := by cases k <;> rfl
theorem State.unit_setUnit (s : State) (j k : UnitId) (u : ExecUnit) :
    (s.setUnit k u).unit j = if j = k then u else s.unit j := by cases j <;> cases k <;> rfl
@[simp] theorem State.setUnit_setUnit (s : State) (k u v) : (s.setUnit k u).setUnit k v = s.setUnit k v := by cases k <;> rfl
@[simp] theorem State.setUnit_unit (s : State) (k) : s.setUnit k (s.unit k) = s := by cases k <;> rfl
@[simp] theorem State.chan_setUnit (s : State) (j k u) : (s.setUnit k u).chan j = s.chan j := by cases j <;> cases k <;> rfl
@[simp] theorem State.unit_setChan (s : State) (j k q) : (s.setChan k q).unit j = s.unit j := by cases j <;> cases k <;> rfl
@[simp] theorem State.chan_setChan_self (s : State) (k q) : (s.setChan k q).chan k = q := by cases k <;> rfl
@[simp] theorem State.chan_setChan_other (s : State) (k q) : (s.setChan k q).chan k.other = s.chan k.other := by cases k <;> rfl
@[simp] theorem State.chan_other_setChan (s : State) (k q) : (s.setChan k.other q).chan k = s.chan k := by cases k <;> rfl
theorem State.chan_setChan (s : State) (j k : UnitId) (q : List Word) :
    (s.setChan k q).chan j = if j = k then q else s.chan j := by cases j <;> cases k <;> rfl

@[simp] theorem State.setUnit_active (s : State) (k u) : (s.setUnit k u).active = s.active := by cases k <;> rfl
@[simp] theorem State.setUnit_turnProgress (s : State) (k u) : (s.setUnit k u).turnProgress = s.turnProgress := by cases k <;> rfl
@[simp] theorem State.setUnit_prevZero (s : State) (k u) : (s.setUnit k u).prevZero = s.prevZero := by cases k <;> rfl
@[simp] theorem State.setUnit_mode (s : State) (k u) : (s.setUnit k u).mode = s.mode := by cases k <;> rfl
@[simp] theorem State.setUnit_phase (s : State) (k u) : (s.setUnit k u).phase = s.phase := by cases k <;> rfl
@[simp] theorem State.setUnit_faultCode (s : State) (k u) : (s.setUnit k u).faultCode = s.faultCode := by cases k <;> rfl
@[simp] theorem State.setUnit_faultIndex (s : State) (k u) : (s.setUnit k u).faultIndex = s.faultIndex := by cases k <;> rfl
@[simp] theorem State.setUnit_result (s : State) (k u) : (s.setUnit k u).result = s.result := by cases k <;> rfl
@[simp] theorem State.setUnit_resultValid (s : State) (k u) : (s.setUnit k u).resultValid = s.resultValid := by cases k <;> rfl
@[simp] theorem State.setUnit_prog (s : State) (k u) : (s.setUnit k u).prog = s.prog := by cases k <;> rfl
@[simp] theorem State.setChan_active (s : State) (k q) : (s.setChan k q).active = s.active := by cases k <;> rfl
@[simp] theorem State.setChan_turnProgress (s : State) (k q) : (s.setChan k q).turnProgress = s.turnProgress := by cases k <;> rfl
@[simp] theorem State.setChan_prevZero (s : State) (k q) : (s.setChan k q).prevZero = s.prevZero := by cases k <;> rfl
@[simp] theorem State.setChan_mode (s : State) (k q) : (s.setChan k q).mode = s.mode := by cases k <;> rfl
@[simp] theorem State.setChan_phase (s : State) (k q) : (s.setChan k q).phase = s.phase := by cases k <;> rfl
@[simp] theorem State.setChan_faultCode (s : State) (k q) : (s.setChan k q).faultCode = s.faultCode := by cases k <;> rfl
@[simp] theorem State.setChan_faultIndex (s : State) (k q) : (s.setChan k q).faultIndex = s.faultIndex := by cases k <;> rfl
@[simp] theorem State.setChan_result (s : State) (k q) : (s.setChan k q).result = s.result := by cases k <;> rfl
@[simp] theorem State.setChan_resultValid (s : State) (k q) : (s.setChan k q).resultValid = s.resultValid := by cases k <;> rfl
@[simp] theorem State.setChan_prog (s : State) (k q) : (s.setChan k q).prog = s.prog := by cases k <;> rfl

@[simp] theorem State.executing_setUnit (s : State) (k u) : (s.setUnit k u).executing = s.executing := by
  simp [State.executing]
@[simp] theorem State.executing_setChan (s : State) (k q) : (s.setChan k q).executing = s.executing := by
  simp [State.executing]

/-! ## The executing unit -/

@[simp] theorem State.cur_setCur (s : State) (u) : (s.setCur u).cur = u := by simp [State.cur, State.setCur]
@[simp] theorem State.setCur_setCur (s : State) (u v) : (s.setCur u).setCur v = s.setCur v := by simp [State.setCur]
@[simp] theorem State.cur_setChan (s : State) (k q) : (s.setChan k q).cur = s.cur := by simp [State.cur]
@[simp] theorem State.executing_setCur (s : State) (u) : (s.setCur u).executing = s.executing := by simp [State.setCur]
@[simp] theorem State.chan_setCur (s : State) (j u) : (s.setCur u).chan j = s.chan j := by simp [State.setCur]
theorem State.unit_setCur (s : State) (u) : (s.setCur u).unit s.executing = u := by simp [State.setCur]
theorem State.other_setCur (s : State) (u) : (s.setCur u).unit s.executing.other = s.unit s.executing.other := by
  simp [State.setCur]
@[simp] theorem State.setCur_active (s : State) (u) : (s.setCur u).active = s.active := by simp [State.setCur]
@[simp] theorem State.setCur_turnProgress (s : State) (u) : (s.setCur u).turnProgress = s.turnProgress := by simp [State.setCur]
@[simp] theorem State.setCur_prevZero (s : State) (u) : (s.setCur u).prevZero = s.prevZero := by simp [State.setCur]
@[simp] theorem State.setCur_mode (s : State) (u) : (s.setCur u).mode = s.mode := by simp [State.setCur]
@[simp] theorem State.setCur_phase (s : State) (u) : (s.setCur u).phase = s.phase := by simp [State.setCur]
@[simp] theorem State.setCur_faultCode (s : State) (u) : (s.setCur u).faultCode = s.faultCode := by simp [State.setCur]
@[simp] theorem State.setCur_faultIndex (s : State) (u) : (s.setCur u).faultIndex = s.faultIndex := by simp [State.setCur]
@[simp] theorem State.setCur_result (s : State) (u) : (s.setCur u).result = s.result := by simp [State.setCur]
@[simp] theorem State.setCur_resultValid (s : State) (u) : (s.setCur u).resultValid = s.resultValid := by simp [State.setCur]
@[simp] theorem State.setCur_prog (s : State) (u) : (s.setCur u).prog = s.prog := by simp [State.setCur]

/-! ## Fetching reads the program store alone (R32) -/

theorem Memory.wf_iff {m : Memory} : Memory.wf m = true ↔ m.length ≤ 2 ^ 63 - 1 := decide_eq_true_iff

theorem State.inProgram_iff {s : State} {a : Word} :
    s.inProgram a = true ↔ 0 ≤ a.toInt ∧ a.toInt < s.prog.length := decide_eq_true_iff

theorem State.fetch_congr {s t : State} (h : t.prog = s.prog) (a : Word) : t.fetch a = s.fetch a := by
  cases s; cases t; cases h; rfl

@[simp] theorem State.fetch_setUnit (s : State) (k u a) : (s.setUnit k u).fetch a = s.fetch a := State.fetch_congr (by simp) a
@[simp] theorem State.fetch_setChan (s : State) (k q a) : (s.setChan k q).fetch a = s.fetch a := State.fetch_congr (by simp) a
@[simp] theorem State.fetch_setCur (s : State) (u a) : (s.setCur u).fetch a = s.fetch a := State.fetch_congr (by simp) a

/-! ## The fault record and the result -/

@[simp] theorem State.raise_active (s : State) (f a) : (s.raise f a).active = s.active := rfl
@[simp] theorem State.raise_turnProgress (s : State) (f a) : (s.raise f a).turnProgress = s.turnProgress := rfl
@[simp] theorem State.raise_prevZero (s : State) (f a) : (s.raise f a).prevZero = s.prevZero := rfl
@[simp] theorem State.raise_mode (s : State) (f a) : (s.raise f a).mode = s.mode := rfl
@[simp] theorem State.raise_phase (s : State) (f a) : (s.raise f a).phase = .fault := rfl
@[simp] theorem State.raise_faultCode (s : State) (f a) : (s.raise f a).faultCode = f := rfl
@[simp] theorem State.raise_faultIndex (s : State) (f a) : (s.raise f a).faultIndex = a := rfl
@[simp] theorem State.raise_result (s : State) (f a) : (s.raise f a).result = s.result := rfl
@[simp] theorem State.raise_resultValid (s : State) (f a) : (s.raise f a).resultValid = false := rfl
@[simp] theorem State.raise_prog (s : State) (f a) : (s.raise f a).prog = s.prog := rfl
@[simp] theorem State.raise_unit (s : State) (f a) (k) : (s.raise f a).unit k = s.unit k := by cases k <;> rfl
@[simp] theorem State.raise_chan (s : State) (f a) (k) : (s.raise f a).chan k = s.chan k := by cases k <;> rfl
@[simp] theorem State.raise_executing (s : State) (f a) : (s.raise f a).executing = s.executing := rfl
@[simp] theorem State.raise_cur (s : State) (f a) : (s.raise f a).cur = s.cur := by simp [State.cur]
@[simp] theorem State.raise_fetch (s : State) (f a) (k) : (s.raise f a).fetch k = s.fetch k := rfl
@[simp] theorem State.finish_active (s : State) (v b) : (s.finish v b).active = s.active := rfl
@[simp] theorem State.finish_turnProgress (s : State) (v b) : (s.finish v b).turnProgress = s.turnProgress := rfl
@[simp] theorem State.finish_prevZero (s : State) (v b) : (s.finish v b).prevZero = s.prevZero := rfl
@[simp] theorem State.finish_mode (s : State) (v b) : (s.finish v b).mode = s.mode := rfl
@[simp] theorem State.finish_phase (s : State) (v b) : (s.finish v b).phase = .done := rfl
@[simp] theorem State.finish_faultCode (s : State) (v b) : (s.finish v b).faultCode = s.faultCode := rfl
@[simp] theorem State.finish_faultIndex (s : State) (v b) : (s.finish v b).faultIndex = s.faultIndex := rfl
@[simp] theorem State.finish_result (s : State) (v b) : (s.finish v b).result = v := rfl
@[simp] theorem State.finish_resultValid (s : State) (v b) : (s.finish v b).resultValid = b := rfl
@[simp] theorem State.finish_prog (s : State) (v b) : (s.finish v b).prog = s.prog := rfl
@[simp] theorem State.finish_unit (s : State) (v b) (k) : (s.finish v b).unit k = s.unit k := by cases k <;> rfl
@[simp] theorem State.finish_chan (s : State) (v b) (k) : (s.finish v b).chan k = s.chan k := by cases k <;> rfl
@[simp] theorem State.finish_executing (s : State) (v b) : (s.finish v b).executing = s.executing := rfl
@[simp] theorem State.finish_cur (s : State) (v b) : (s.finish v b).cur = s.cur := by simp [State.cur]
@[simp] theorem State.finish_fetch (s : State) (v b) (k) : (s.finish v b).fetch k = s.fetch k := rfl

end Sys2Proof.Machine
end

