-- ==== Sys2Proof/Laws/Exec.lean ====
section
/-! SUPPORT. What the shared operations and the instructions can do, said once: the frame of a write to the executing unit, the
family's common end, each instruction's answer, and the seven cases an executed instruction falls in. -/

namespace Sys2Proof.Machine

/-! ## Frames of the shared operations -/

theorem SameModeRegs.refl (u : ExecUnit) : SameModeRegs u u := ⟨rfl, rfl, rfl, rfl⟩

theorem SameOutside.refl (s : State) : SameOutside s s := by constructor <;> simp

/-- A write of the executing unit leaves everything outside it alone. -/
theorem sameOutside_setCur (s : State) (u : ExecUnit) : SameOutside s (s.setCur u) := by
  constructor <;> simp [State.other_setCur, State.progLength]

/-- A write of a channel and of the executing unit leaves everything outside them alone. -/
theorem sameOutside_setChan_setCur (s : State) (k : UnitId) (q : List Word) (u : ExecUnit) :
    SameOutside s ((s.setChan k q).setCur u) := by
  constructor <;> simp [State.setCur, State.progLength]

theorem sameChannels_setCur (s : State) (u : ExecUnit) : SameChannels s (s.setCur u) := fun k => by simp

@[simp] theorem unit_executing_setCur (s : State) (u : ExecUnit) : (s.setCur u).unit s.executing = u := State.unit_setCur s u

/-- The common end of an executed instruction is one write of the executing unit (R66, R68). -/
theorem retire_eq (s : State) (p : Word) : s.retire p = s.setCur { s.cur with pc := p, ustate := .running } := rfl

theorem advance_eq (s : State) :
    s.advance = s.setCur { s.cur with pc := wrap64 (s.cur.pc.toInt + 1), ustate := .running } := rfl

theorem writeAndAdvance_eq (s : State) (r : RegIdx) (v : Word) :
    s.writeAndAdvance r v
      = s.setCur { s.cur.setReg r v with pc := wrap64 (s.cur.pc.toInt + 1), ustate := .running } := by
  simp [State.writeAndAdvance, State.writeReg, advance_eq]

/-- The end of the arithmetic family writes its register and advances, and does nothing else (R75). -/
theorem wroteRegister_writeAndAdvance (s : State) (r : RegIdx) (v : Word) :
    WroteRegister s (s.writeAndAdvance r v) r v := by
  rw [writeAndAdvance_eq]
  constructor
  · simpa [ExecUnit.reg] using ExecUnit.reg_setReg_self s.cur r v
  · intro i hi; simpa [ExecUnit.reg] using ExecUnit.reg_setReg_ne s.cur v hi
  · simp
  · simp
  · constructor <;> simp
  · exact sameChannels_setCur _ _
  · exact sameOutside_setCur _ _

/-! ## Channels -/

theorem popInbound_nil {s : State} (h : s.chan s.inbound = []) : s.popInbound = none := by simp [State.popInbound, h]

theorem popInbound_cons {s : State} {v : Word} {rest : List Word} (h : s.chan s.inbound = v :: rest) :
    s.popInbound = some (v, s.setChan s.inbound rest) := by simp [State.popInbound, h]

/-! ## The answer of each instruction -/

theorem exec_snd_standalone {s : State} (h : s.mode = .standalone) (x : Operand) :
    exec (.snd x) s = .next (s.setCur { s.cur with
      lsv := s.resolve x, pc := wrap64 (s.cur.pc.toInt + 1), ustate := .running }) := by
  simp [exec, execSnd, h, sndStandalone, State.setLsv, advance_eq]

theorem exec_snd_cooperative {s : State} (h : s.mode = .cooperative) (x : Operand) :
    exec (.snd x) s = .next ((s.setChan s.executing (s.chan s.executing ++ [s.resolve x])).setCur { s.cur with
      sentCount := wrap64 (s.cur.sentCount.toInt + 1), pc := wrap64 (s.cur.pc.toInt + 1), ustate := .running }) := by
  simp [exec, execSnd, h, sndCooperative, State.push, State.countSent, advance_eq]

theorem exec_rcv_zero {s : State} (h : s.mode = .standalone) {r : RegIdx} (hz : s.readReg r = 0) :
    exec (.rcv r) s = .next (s.setCur { s.cur with pc := wrap64 (s.cur.pc.toInt + 1), ustate := .running }) := by
  simp [exec, execRcv, h, rcvStandalone, isNonZero, hz, advance_eq]

theorem exec_rcv_triggers {s : State} (h : s.mode = .standalone) {r : RegIdx} (hz : s.readReg r ≠ 0) :
    exec (.rcv r) s = .next (s.setCur { s.cur with
      frv := if s.cur.frvLatched then s.cur.frv else s.cur.lsv, frvLatched := true, ustate := .halted }) := by
  have ht : isNonZero (s.readReg r) = true := by simpa [isNonZero] using hz
  by_cases hl : s.cur.frvLatched = true
  · have e : exec (.rcv r) s = .next (s.setCur { s.cur with ustate := .halted }) := by
      simp [exec, execRcv, h, rcvStandalone, ht, State.latchFrv, State.setUstate, hl]
    rw [e]
    simp [hl]
  · simp [exec, execRcv, h, rcvStandalone, ht, State.latchFrv, State.setUstate, hl]

theorem exec_rcv_receives {s : State} (h : s.mode = .cooperative) (r : RegIdx) {v : Word} {rest : List Word}
    (hq : s.chan s.inbound = v :: rest) :
    exec (.rcv r) s = .next ((s.setChan s.inbound rest).setCur { s.cur.setReg r v with
      pc := wrap64 (s.cur.pc.toInt + 1), ustate := .running }) := by
  simp [exec, execRcv, h, rcvCooperative, popInbound_cons hq, State.writeReg, advance_eq]

theorem exec_rcv_waits {s : State} (h : s.mode = .cooperative) (r : RegIdx) (hq : s.chan s.inbound = []) :
    exec (.rcv r) s = .next (s.setCur { s.cur with ustate := .suspended }) := by
  simp [exec, execRcv, h, rcvCooperative, popInbound_nil hq, State.setUstate]

theorem exec_mod_zero {s : State} (r : RegIdx) {x : Operand} (hz : s.resolve x = 0) :
    exec (.mod r x) s = .next (s.raise .modByZero s.cur.pc) := by
  simp [exec, execMod, hz]

/-! ## What an executed instruction can do -/

/-- The seven cases of an executed instruction, from `s` to `t`. -/
inductive ExecCase (s : State) : Instr → State → Prop where
  /-- It wrote registers and the pc of the executing unit, in a way that no mode-specific register or channel sees. -/
  | quiet (i : Instr) (u : ExecUnit) (hi : i.silent = true ∨ (s.mode = .standalone ∧ ∃ r, i = .rcv r))
      (hr : u.ustate = .running) (hm : SameModeRegs s.cur u) : ExecCase s i (s.setCur u)
  /-- A standalone `snd` (R91). -/
  | remember (x : Operand) (h : s.mode = .standalone) :
      ExecCase s (.snd x) (s.setCur { s.cur with
        lsv := s.resolve x, pc := wrap64 (s.cur.pc.toInt + 1), ustate := .running })
  /-- A standalone `rcv` that triggers (R94). -/
  | recover (r : RegIdx) (h : s.mode = .standalone) :
      ExecCase s (.rcv r) (s.setCur { s.cur with
        frv := if s.cur.frvLatched then s.cur.frv else s.cur.lsv, frvLatched := true, ustate := .halted })
  /-- A cooperative `snd` (R92). -/
  | send (x : Operand) (h : s.mode = .cooperative) :
      ExecCase s (.snd x) ((s.setChan s.executing (s.chan s.executing ++ [s.resolve x])).setCur { s.cur with
        sentCount := wrap64 (s.cur.sentCount.toInt + 1), pc := wrap64 (s.cur.pc.toInt + 1), ustate := .running })
  /-- A cooperative `rcv` that finds a value (R95). -/
  | receive (r : RegIdx) (v : Word) (rest : List Word) (h : s.mode = .cooperative) (hq : s.chan s.inbound = v :: rest) :
      ExecCase s (.rcv r) ((s.setChan s.inbound rest).setCur { s.cur.setReg r v with
        pc := wrap64 (s.cur.pc.toInt + 1), ustate := .running })
  /-- A cooperative `rcv` that finds its channel empty (R95). -/
  | wait (r : RegIdx) (h : s.mode = .cooperative) (hq : s.chan s.inbound = []) :
      ExecCase s (.rcv r) (s.setCur { s.cur with ustate := .suspended })
  /-- `mod` with a zero divisor (R79, R123). -/
  | modZero (r : RegIdx) (x : Operand) (hz : s.resolve x = 0) : ExecCase s (.mod r x) (s.raise .modByZero s.cur.pc)

theorem execCase_writeAndAdvance (s : State) (i : Instr) (hi : i.silent = true) (r : RegIdx) (v : Word) :
    ExecCase s i (s.writeAndAdvance r v) := by
  rw [writeAndAdvance_eq]
  exact .quiet i _ (.inl hi) rfl ⟨rfl, rfl, rfl, rfl⟩

/-- Every instruction answers a next state, in one of the seven cases. -/
theorem exec_cases (i : Instr) (s : State) : ∃ t, exec i s = .next t ∧ ExecCase s i t := by
  cases i with
  | snd x =>
    cases h : s.mode
    · exact ⟨_, exec_snd_standalone h x, .remember x h⟩
    · exact ⟨_, exec_snd_cooperative h x, .send x h⟩
  | set r x => exact ⟨_, rfl, execCase_writeAndAdvance _ _ rfl _ _⟩
  | add r x => exact ⟨_, rfl, execCase_writeAndAdvance _ _ rfl _ _⟩
  | mul r x => exact ⟨_, rfl, execCase_writeAndAdvance _ _ rfl _ _⟩
  | mod r x =>
    by_cases hz : s.resolve x = 0
    · exact ⟨_, exec_mod_zero r hz, .modZero r x hz⟩
    · exact ⟨_, if_neg hz, execCase_writeAndAdvance _ _ rfl _ _⟩
  | rcv r =>
    cases h : s.mode
    · by_cases hz : s.readReg r = 0
      · exact ⟨_, exec_rcv_zero h hz, .quiet _ _ (.inr ⟨h, r, rfl⟩) rfl ⟨rfl, rfl, rfl, rfl⟩⟩
      · exact ⟨_, exec_rcv_triggers h hz, .recover r h⟩
    · cases hq : s.chan s.inbound with
      | nil => exact ⟨_, exec_rcv_waits h r hq, .wait r h hq⟩
      | cons v rest => exact ⟨_, exec_rcv_receives h r hq, .receive r v rest h hq⟩
  | jgz x y =>
    by_cases hp : isPositive (s.resolve x) = true
    · exact ⟨_, if_pos hp, .quiet _ _ (.inl rfl) rfl ⟨rfl, rfl, rfl, rfl⟩⟩
    · exact ⟨_, if_neg hp, .quiet _ _ (.inl rfl) rfl ⟨rfl, rfl, rfl, rfl⟩⟩

theorem exec_case_of_next {i : Instr} {s t : State} (h : exec i s = .next t) : ExecCase s i t := by
  obtain ⟨t', h', hc⟩ := exec_cases i s
  rw [h] at h'
  cases h'
  exact hc

end Sys2Proof.Machine
end

