-- ==== Sys2Proof/Laws/PerInstr.lean ====
section
/-! SUPPORT. Per-instruction families: statements about the instruction as syntax, one lemma per constructor. -/

namespace Sys2Proof.Laws.SourceForm

open Sys2Proof

theorem toRaw_wf (x : Operand) : x.toRaw.wf = true := by
  cases x with
  | reg i => have := i.isLt; simp [Operand.toRaw, RawOperand.wf]; omega
  | lit v =>
    have h1 := v.le_toInt
    have h2 := v.toInt_lt
    simp only [Operand.toRaw, RawOperand.wf, decide_eq_true_eq]
    omega

theorem check_toRaw (x : Operand) : x.toRaw.check = some x := by
  cases x with
  | reg i => simp [Operand.toRaw, RawOperand.check]
  | lit v =>
    have h1 := v.le_toInt
    have h2 := v.toInt_lt
    have hb : -(2 ^ 63) ≤ v.toInt ∧ v.toInt ≤ 2 ^ 63 - 1 := by omega
    simp only [Operand.toRaw, RawOperand.check, if_pos hb, wrap64, BitVec.ofInt_toInt]

theorem reg_wf (r : RegIdx) : (RawOperand.reg r.val).wf = true := toRaw_wf (.reg r)

theorem checkReg_val (r : RegIdx) : (RawOperand.reg r.val).checkReg = some r := by simp [RawOperand.checkReg]

/-- The instruction's unchecked form (R47) is well-formed, and checking it gives the instruction back. -/
def Statement (i : Instr) : Prop := i.wf = true ∧ i.toRaw.check = .ok i

theorem snd (x : Operand) : Statement (.snd x) := by
  simp [Statement, Instr.wf, Instr.toRaw, RawInstr.wf, RawInstr.firstOk, RawInstr.secondOk, RawInstr.check, toRaw_wf, check_toRaw,
    decodeOne, Opcode.firstIsDestination, Opcode.takesTwo]

theorem set (r : RegIdx) (x : Operand) : Statement (.set r x) := by
  simp [Statement, Instr.wf, Instr.toRaw, RawInstr.wf, RawInstr.firstOk, RawInstr.secondOk, RawInstr.check, toRaw_wf, check_toRaw,
    decodeTwo, Opcode.takesTwo, RawOperand.isReg, reg_wf, checkReg_val]

theorem add (r : RegIdx) (x : Operand) : Statement (.add r x) := by
  simp [Statement, Instr.wf, Instr.toRaw, RawInstr.wf, RawInstr.firstOk, RawInstr.secondOk, RawInstr.check, toRaw_wf, check_toRaw,
    decodeTwo, Opcode.takesTwo, RawOperand.isReg, reg_wf, checkReg_val]

theorem mul (r : RegIdx) (x : Operand) : Statement (.mul r x) := by
  simp [Statement, Instr.wf, Instr.toRaw, RawInstr.wf, RawInstr.firstOk, RawInstr.secondOk, RawInstr.check, toRaw_wf, check_toRaw,
    decodeTwo, Opcode.takesTwo, RawOperand.isReg, reg_wf, checkReg_val]

theorem mod (r : RegIdx) (x : Operand) : Statement (.mod r x) := by
  simp [Statement, Instr.wf, Instr.toRaw, RawInstr.wf, RawInstr.firstOk, RawInstr.secondOk, RawInstr.check, toRaw_wf, check_toRaw,
    decodeTwo, Opcode.takesTwo, RawOperand.isReg, reg_wf, checkReg_val]

theorem rcv (r : RegIdx) : Statement (.rcv r) := by
  simp [Statement, Instr.wf, Instr.toRaw, RawInstr.wf, RawInstr.firstOk, RawInstr.secondOk, RawInstr.check, checkReg_val,
    decodeOne, Opcode.takesTwo, RawOperand.isReg, reg_wf]

theorem jgz (x y : Operand) : Statement (.jgz x y) := by
  simp [Statement, Instr.wf, Instr.toRaw, RawInstr.wf, RawInstr.firstOk, RawInstr.secondOk, RawInstr.check, toRaw_wf, check_toRaw,
    decodeTwo, Opcode.firstIsDestination, Opcode.takesTwo]

end Sys2Proof.Laws.SourceForm
end

