-- ==== Sys2Proof/Laws/Step.lean ====
section
/-! SUPPORT. What a step can do, said once: the cases of `unitStep`, of `step`, and the outcome of each executed instruction; and
that the operations on the program store keep its bound. -/

namespace Sys2Proof.Machine

/-! ## The instruction at an index -/

theorem instrAt_eq_some {s : State} {a : Word} {i : Instr} :
    s.instrAt a = some i ↔ ∃ w, s.fetch a = some w ∧ decode w = .ok i := by
  unfold State.instrAt
  cases hf : s.fetch a with
  | none => simp
  | some w => cases hd : decode w <;> simp [hd]

theorem instrAt_congr {s t : State} (h : t.prog = s.prog) (a : Word) : t.instrAt a = s.instrAt a := by
  simp only [State.instrAt, State.fetch_congr h]

/-- A fetch finds a word exactly inside the program (R32). -/
theorem fetch_eq_none_iff {s : State} {a : Word} : s.fetch a = none ↔ s.inProgram a = false := by
  unfold State.fetch
  cases h : s.inProgram a with
  | false => simp
  | true =>
    have hb : 0 ≤ a.toInt ∧ a.toInt < s.progLength := by simpa [State.inProgram] using h
    have hl : a.toInt.toNat < s.prog.length := by
      have := hb.2
      unfold State.progLength at this
      omega
    simp only [if_true, List.getElem?_eq_getElem hl]
    simp

/-! ## The step of a unit (R66) -/

theorem unitStep_halted {s : State} (h : s.cur.ustate = .halted) : unitStep s = .next (.idle, s) := by
  simp [unitStep, h]

theorem unitStep_outside {s : State} (h : s.cur.ustate ≠ .halted) (hf : s.fetch s.cur.pc = none) :
    unitStep s = .next (.halt, s.setUstate .halted) := by
  simp [unitStep, h, hf]

theorem unitStep_executes {s t : State} {i : Instr} (h : s.cur.ustate ≠ .halted) (hi : s.instrAt s.cur.pc = some i)
    (he : exec i s = .next t) : unitStep s = .next (outcomeAfter t, t) := by
  obtain ⟨w, hf, hd⟩ := instrAt_eq_some.1 hi
  simp [unitStep, h, hf, hd, he]

/-- A step of a unit is idle, halts, or executes the instruction at the pc. -/
theorem unitStep_cases {s t : State} {o : UnitOutcome} (h : unitStep s = .next (o, t)) :
    (s.cur.ustate = .halted ∧ o = .idle ∧ t = s) ∨
    (s.cur.ustate ≠ .halted ∧ s.fetch s.cur.pc = none ∧ o = .halt ∧ t = s.setUstate .halted) ∨
    (s.cur.ustate ≠ .halted ∧ ∃ i, s.instrAt s.cur.pc = some i ∧ exec i s = .next t ∧ o = outcomeAfter t) := by
  by_cases hh : s.cur.ustate = .halted
  · rw [unitStep_halted hh] at h
    cases h
    exact .inl ⟨hh, rfl, rfl⟩
  · cases hf : s.fetch s.cur.pc with
    | none =>
      rw [unitStep_outside hh hf] at h
      cases h
      exact .inr (.inl ⟨hh, rfl, rfl, rfl⟩)
    | some w =>
      cases hd : decode w with
      | error f => simp [unitStep, hh, hf, hd] at h
      | ok i =>
        have hi : s.instrAt s.cur.pc = some i := instrAt_eq_some.2 ⟨w, hf, hd⟩
        obtain ⟨t', he, _⟩ := exec_cases i s
        rw [unitStep_executes hh hi he] at h
        cases h
        exact .inr (.inr ⟨hh, i, hi, he, rfl⟩)

/-- A step of a unit has no next state only at a word that does not decode. -/
theorem unitStep_stops {s : State} (h : ∀ o t, unitStep s ≠ .next (o, t)) :
    ∃ w f, s.fetch s.cur.pc = some w ∧ decode w = .error f := by
  by_cases hh : s.cur.ustate = .halted
  · exact absurd (unitStep_halted hh) (h _ _)
  · cases hf : s.fetch s.cur.pc with
    | none => exact absurd (unitStep_outside hh hf) (h _ _)
    | some w =>
      cases hd : decode w with
      | error f => exact ⟨w, f, rfl, hd⟩
      | ok i =>
        obtain ⟨t', he, _⟩ := exec_cases i s
        exact absurd (unitStep_executes hh (instrAt_eq_some.2 ⟨w, hf, hd⟩) he) (h _ _)

/-! ## The outcome of an executed instruction -/

/-- The outcome of an instruction executed in phase RUN, case by case (R66, R68). -/
theorem outcomeAfter_of_case {s t : State} {i : Instr} (hp : s.phase = .run) (h : ExecCase s i t) :
    (outcomeAfter t = .executed ∧ t.phase = .run) ∨
    (outcomeAfter t = .suspend ∧ t.phase = .run ∧ s.mode = .cooperative ∧ (∃ r, i = .rcv r) ∧ s.chan s.inbound = [] ∧
      t = s.setCur { s.cur with ustate := .suspended }) ∨
    (outcomeAfter t = .fault ∧ t = s.raise .modByZero s.cur.pc ∧ ∃ r x, i = .mod r x ∧ s.resolve x = 0) := by
  cases h with
  | quiet _ u hi hr hm => left; simp [outcomeAfter, hp, hr]
  | remember x h => left; simp [outcomeAfter, hp]
  | recover r h => left; simp [outcomeAfter, hp]
  | send x h => left; simp [outcomeAfter, hp]
  | receive r v rest h hq => left; simp [outcomeAfter, hp]
  | wait r h hq => right; left; exact ⟨by simp [outcomeAfter, hp], by simp [hp], h, ⟨r, rfl⟩, hq, rfl⟩
  | modZero r x hz => right; right; exact ⟨by simp [outcomeAfter], rfl, r, x, rfl, hz⟩

/-! ## The step of the machine (R65) -/

/-- A step of the machine is the validation step, the end of a standalone run, a standalone unit's step, or a scheduler step. -/
theorem step_cases {s t : State} (h : step s = .next t) :
    (s.phase = .check ∧ t = validationStep s) ∨
    (s.phase = .run ∧ s.mode = .standalone ∧ s.u0.ustate = .halted ∧ t = s.finish s.u0.frv s.u0.frvLatched) ∨
    (s.phase = .run ∧ s.mode = .standalone ∧ s.u0.ustate ≠ .halted ∧ ∃ o, unitStep s = .next (o, t)) ∨
    (s.phase = .run ∧ s.mode = .cooperative ∧ ∃ o u, unitStep s = .next (o, u) ∧ t = afterUnitStep o u) := by
  unfold step machineStep at h
  cases hp : s.phase with
  | check => simp [hp] at h; exact .inl ⟨rfl, h.symm⟩
  | done => simp [hp] at h
  | fault => simp [hp] at h
  | run =>
    cases hm : s.mode with
    | standalone =>
      simp only [hp, hm, standaloneStep] at h
      by_cases hh : s.u0.ustate = .halted
      · simp only [hh, if_true] at h
        cases h
        exact .inr (.inl ⟨rfl, rfl, hh, rfl⟩)
      · simp only [hh, if_false] at h
        cases hu : unitStep s with
        | next p => rw [hu] at h; cases h; exact .inr (.inr (.inl ⟨rfl, rfl, hh, p.1, rfl⟩))
        | fault f => rw [hu] at h; cases h
        | refused r => rw [hu] at h; cases h
    | cooperative =>
      simp only [hp, hm, schedulerStep] at h
      cases hu : unitStep s with
      | next p => rw [hu] at h; cases h; exact .inr (.inr (.inr ⟨rfl, rfl, p.1, p.2, rfl, rfl⟩))
      | fault f => rw [hu] at h; cases h
      | refused r => rw [hu] at h; cases h

theorem step_check {s : State} (hp : s.phase = .check) : step s = .next (validationStep s) := by
  simp [step, machineStep, hp]

theorem step_standalone {s t : State} {o : UnitOutcome} (hp : s.phase = .run) (hm : s.mode = .standalone)
    (hh : s.u0.ustate ≠ .halted) (h : unitStep s = .next (o, t)) : step s = .next t := by
  simp [step, machineStep, hp, hm, standaloneStep, hh, h]

theorem step_standalone_done {s : State} (hp : s.phase = .run) (hm : s.mode = .standalone) (hh : s.u0.ustate = .halted) :
    step s = .next (s.finish s.u0.frv s.u0.frvLatched) := by
  simp [step, machineStep, hp, hm, standaloneStep, hh]

theorem step_cooperative {s t : State} {o : UnitOutcome} (hp : s.phase = .run) (hm : s.mode = .cooperative)
    (h : unitStep s = .next (o, t)) : step s = .next (afterUnitStep o t) := by
  simp [step, machineStep, hp, hm, schedulerStep, h]

@[simp] theorem executing_standalone {s : State} (h : s.mode = .standalone) : s.executing = .u0 := by
  simp [State.executing, h]

@[simp] theorem executing_cooperative {s : State} (h : s.mode = .cooperative) : s.executing = s.active := by
  simp [State.executing, h]

/-! ## The program store keeps its bound (R31) -/

theorem placeWord_wf {s : State} (w : InstrWord) (h : Memory.wf s.prog = true) : Memory.wf (placeWord s w).prog = true := by
  have hl : s.prog.length ≤ Config.maxProgramLength := by simpa [Memory.wf] using h
  unfold placeWord
  split
  · rename_i hb
    have hlen := hb.2.2
    have hle := hb.2.1
    unfold State.progLength at hle
    simp only [Memory.wf, decide_eq_true_eq, List.length_append, List.length_take, List.length_cons, List.length_drop]
    omega
  · simp only [Memory.wf, State.setCur_prog, decide_eq_true_eq, List.length_cons, List.length_drop]
    have : 0 < Config.maxProgramLength := by decide
    omega

theorem wakeUnit_prog (s : State) : (wakeUnit s).prog = s.prog := by
  unfold wakeUnit
  split <;> simp [State.setUstate]

/-- Placing a word for the next fetch keeps the bound. -/
theorem withFetchWord_wf {s : State} (n w : Nat) (h : Memory.wf s.prog = true) :
    Memory.wf (s.withFetchWord n w).prog = true := by
  unfold State.withFetchWord
  rw [wakeUnit_prog]
  exact placeWord_wf _ h

/-- A validation step leaves the program as it is. -/
theorem validationStep_prog (s : State) : (validationStep s).prog = s.prog := by
  unfold validationStep
  split <;> rfl

/-- The scheduler's bookkeeping leaves the program as it is. -/
theorem afterUnitStep_prog (o : UnitOutcome) (s : State) : (afterUnitStep o s).prog = s.prog := by
  cases o <;> simp only [afterUnitStep, endTurn] <;> (try split) <;> rfl

/-- An executed instruction leaves the program as it is: no instruction has the program store as a destination (R44). -/
theorem exec_prog {i : Instr} {s t : State} (h : exec i s = .next t) : t.prog = s.prog := by
  cases exec_case_of_next h <;> simp

/-- The program store after reset with a program in bound is in bound. -/
theorem resetWith_wf {prog : Memory} (m : Mode) (h : Memory.wf prog = true) :
    Memory.wf (State.resetWith m prog).prog = true := h

theorem reset_wf : Memory.wf State.reset.prog = true := by decide

end Sys2Proof.Machine
end

