-- ==== Sys2Proof/Tests/Slice0.lean ====
section
/-! SUPPORT. Small tests. Expected results are the spec's own vectors (95_test_vectors.md, the section named at each group) or
worked out by hand from the rule named there. Each is about one step on a small state; the last part shows, for each
statement with hypotheses, a state that meets them. -/

open Sys2Proof Sys2Proof.Machine

namespace Sys2Proof.Tests

/-! ## Helpers -/

/-- A machine in phase RUN with a program, everything else as after reset. -/
def loaded (m : Mode) (prog : Memory) : State := { State.resetWith m prog with phase := .run }

/-- The executing unit at a pc. -/
def atPc (s : State) (p : Word) : State := s.setCur { s.cur with pc := p }

/-- The state after one step. -/
def after (s : State) : State :=
  match step s with
  | .next t => t
  | .fault _ => s
  | .refused _ => s

/-- What a step looks like from its outcome alone. -/
def stopOf (s : State) : Option Fault :=
  match step s with
  | .next _ => none
  | .fault f => some f
  | .refused _ => none

/-! ## Well-formedness: one ill-formed term per check, refused -/

theorem test_wf_register_index : RawInstr.wf ⟨.snd, some (.reg 26), none⟩ = false := by decide
theorem test_wf_literal_above : RawInstr.wf ⟨.snd, some (.lit (2 ^ 63)), none⟩ = false := by decide
theorem test_wf_literal_below : RawInstr.wf ⟨.snd, some (.lit (-(2 ^ 63) - 1)), none⟩ = false := by decide
theorem test_wf_literal_destination : RawInstr.wf ⟨.set, some (.lit 5), some (.lit 3)⟩ = false := by decide
theorem test_wf_literal_receiver : RawInstr.wf ⟨.rcv, some (.lit 7), none⟩ = false := by decide
theorem test_wf_first_missing : RawInstr.wf ⟨.rcv, none, none⟩ = false := by decide
theorem test_wf_second_missing : RawInstr.wf ⟨.jgz, some (.reg 0), none⟩ = false := by decide
theorem test_wf_second_extra : RawInstr.wf ⟨.snd, some (.reg 0), some (.reg 1)⟩ = false := by decide
theorem test_wf_second_index : RawInstr.wf ⟨.add, some (.reg 0), some (.reg 26)⟩ = false := by decide
theorem test_wf_accepts_bounds :
    RawInstr.wf ⟨.jgz, some (.reg 25), some (.lit (2 ^ 63 - 1))⟩ = true ∧
    RawInstr.wf ⟨.jgz, some (.lit (-(2 ^ 63))), some (.reg 0)⟩ = true := by decide

/-! ## Decoding and encoding: words of V-ENC -/

theorem test_decode_snd_reg : decode 0x0000000000000000000000000000001900 = .ok (.snd (.reg 25)) := by decide
theorem test_decode_snd_lit : decode 0x0000000000000000800000000000000040 = .ok (.snd (.lit (-9223372036854775808))) := by decide
theorem test_decode_set_lit : decode 0xFFFFFFFFFFFFFFEF000000000000000F81 = .ok (.set 15 (.lit (-17))) := by decide
theorem test_decode_set_reg : decode 0x0000000000000000000000000000001901 = .ok (.set 25 (.reg 0)) := by decide
theorem test_decode_add : decode 0x8000000000000000000000000000000082 = .ok (.add 0 (.lit (-9223372036854775808))) := by decide
theorem test_decode_mul : decode 0x0000000000000000000000000000000103 = .ok (.mul 1 (.reg 0)) := by decide
theorem test_decode_mod_reg : decode 0x0000000000000003000000000000000204 = .ok (.mod 2 (.reg 3)) := by decide
theorem test_decode_mod_lit : decode 0x0000000000000005000000000000000284 = .ok (.mod 2 (.lit 5)) := by decide
theorem test_decode_rcv : decode 0x0000000000000000000000000000001905 = .ok (.rcv 25) := by decide
theorem test_decode_jgz_mixed : decode 0x000000000000000F000000000000000546 = .ok (.jgz (.lit 5) (.reg 15)) := by decide
theorem test_decode_jgz_back : decode 0xFFFFFFFFFFFFFFFE000000000000000086 = .ok (.jgz (.reg 0) (.lit (-2))) := by decide
theorem test_encode_set : encode (.set 0 (.lit (-2401053089206439923))) = 0xDEADBEEFCAFEF00D000000000000000081 := by decide
theorem test_encode_jgz : encode (.jgz (.lit 1) (.lit 3)) = 0x00000000000000030000000000000001C6 := by decide
theorem test_encode_all_zero : encode (.snd (.reg 0)) = 0 := by decide

/-! ## Words that are not instructions: V-BAD -/

theorem test_bad_opcode_7 : decode 0x0000000000000000000000000000000007 = .error .unknownOpcode := by decide
theorem test_bad_opcode_first : decode 0x0000000000000000000000000000001A08 = .error .unknownOpcode := by decide
theorem test_bad_register_26 : decode 0x0000000000000000000000000000001A01 = .error .malformedOperand := by decide
theorem test_bad_register_high : decode 0x0000000000000000800000000000000001 = .error .malformedOperand := by decide
theorem test_bad_set_literal : decode 0x00000000000000030000000000000005C1 = .error .malformedOperand := by decide
theorem test_bad_rcv_literal : decode 0x0000000000000000000000000000000745 = .error .malformedOperand := by decide
theorem test_bad_snd_payload : decode 0x0000000000000001000000000000000000 = .error .malformedOperand := by decide
theorem test_bad_rcv_kind : decode 0x0000000000000000000000000000000085 = .error .malformedOperand := by decide
theorem test_bad_jgz_first : decode 0x0000000000000001000000000000001A86 = .error .malformedOperand := by decide
theorem test_bad_jgz_second : decode 0x000000000000001A000000000000000006 = .error .malformedOperand := by decide

/-! ## Bytes and text -/

/-- The byte image of `jgz a -2` (V-ENC). -/
theorem test_bytes_jgz : wordBytes 0xFFFFFFFFFFFFFFFE000000000000000086
    = [0x86, 0, 0, 0, 0, 0, 0, 0, 0, 0xFE, 0xFF, 0xFF, 0xFF, 0xFF, 0xFF, 0xFF, 0xFF] := by decide
/-- The byte image of `snd p` (V-ENC), read back with one byte after it; 16 bytes are not enough. -/
theorem test_bytes_decode :
    decodeBytes [0, 0x0F, 0, 0, 0, 0, 0, 0, 0, 0, 0, 0, 0, 0, 0, 0, 0, 0x55] = .ok (.snd (.reg 15), [0x55]) ∧
    decodeBytes (List.replicate 16 0) = .error .truncated := by decide
/-- The text of V-ENC's rows, the source's malformed line (S3), and each other error of R57. -/
theorem test_text_line : readLine ['j', 'g', 'z', ' ', 'a', ' ', '-', '2'] = .ok (.jgz (.reg 0) (.lit (-2))) := by decide
theorem test_text_unknown : readLine ['x', 'y', 'z', ' ', 'a', ' ', '1'] = .error .unknownOpcode := by decide
theorem test_text_arity : readLine ['a', 'd', 'd', ' ', 'a'] = .error .malformedOperand := by decide
theorem test_text_literal_destination : readLine ['s', 'e', 't', ' ', '5', ' ', '3'] = .error .malformedOperand := by decide
theorem test_text_loader_words :
    loaderWord ['x', 'y', 'z', ' ', 'a', ' ', '1'] = 0x3F ∧ loaderWord ['a', 'd', 'd', ' ', 'a'] = 0x2001 := by decide
theorem test_text_prints : printInstr (.set 15 (.lit (-17))) = ['s', 'e', 't', ' ', 'p', ' ', '-', '1', '7'] := by decide

/-! ## The host's two questions -/

theorem test_table_word : decodeTableWord 136 0x0000000000000005000000000000000284 = some (.mod 2 (.lit 5)) := by decide
theorem test_placed_word_runs :
    (after (State.reset.withFetchWord 136 0x0000000000000001000000000000000081)).u0.reg 0 = 1 := by decide
theorem test_placed_word_pending :
    (State.reset.withFetchWord 136 0x0000000000000001000000000000000081).pending = some (.set 0 (.lit 1)) := by decide

/-! ## Arithmetic: V-SET, V-ADD, V-MUL, V-MOD -/

/-- `set z z` after a write, and `set p -17` in the second unit (V-SET). -/
theorem test_set_identity_is_ordinary :
    let t := after { loaded .cooperative [0xFFFFFFFFFFFFFFEF000000000000000F81] with active := .u1 }
    t.u1.reg 15 = -17 ∧ t.u1.pc = 1 ∧ t.u0.reg 15 = 0 ∧ t.turnProgress = true := by decide
theorem test_set_self :
    let t := after ((loaded .standalone [0x0000000000000019000000000000001901]).writeReg 25 5)
    t.u0.reg 25 = 5 ∧ t.u0.pc = 1 := by decide
/-- MAX + 1 = MIN, and 2^62 + 2^62 = MIN with the source also the destination (V-ADD). -/
theorem test_add_wraps :
    let t := after ((loaded .standalone [0x0000000000000001000000000000000082]).writeReg 0 9223372036854775807)
    t.u0.reg 0 = -9223372036854775808 ∧ t.u0.pc = 1 := by decide
theorem test_add_self :
    let t := after ((loaded .standalone [0x0000000000000000000000000000000002]).writeReg 0 4611686018427387904)
    t.u0.reg 0 = -9223372036854775808 := by decide
/-- 3037000500 squared, and MIN times -1 (V-MUL). -/
theorem test_mul_wraps :
    let t := after ((loaded .standalone [0x0000000000000000000000000000000003]).writeReg 0 3037000500)
    t.u0.reg 0 = -9223372036709301616 := by decide
theorem test_mul_min :
    let t := after ((loaded .standalone [0xFFFFFFFFFFFFFFFF000000000000000083]).writeReg 0 (-9223372036854775808))
    t.u0.reg 0 = -9223372036854775808 := by decide
/-- MIN mod 10 = -8, and 10 mod 0 faults with nothing changed (V-MOD). -/
theorem test_mod_sign :
    let t := after ((loaded .standalone [0x000000000000000A000000000000000084]).writeReg 0 (-9223372036854775808))
    t.u0.reg 0 = -8 ∧ t.u0.pc = 1 := by decide
theorem test_mod_zero :
    let t := after ((loaded .standalone [0x0000000000000001000000000000000004]).writeReg 0 10)
    t.phase = .fault ∧ t.faultCode.number = 3 ∧ t.faultIndex = 0 ∧ t.u0.reg 0 = 10 ∧ t.u0.pc = 0 ∧
      t.u0.ustate = .running := by decide

/-! ## Jumps: V-JGZ -/

/-- `jgz 1 -1` at 0 goes to -1, outside the program. -/
theorem test_jgz_taken : (after (loaded .standalone [0xFFFFFFFFFFFFFFFF0000000000000001C6])).u0.pc = -1 := by decide
/-- `jgz a b` with a = MIN falls through: the test is signed. -/
theorem test_jgz_signed :
    (after ((loaded .standalone [0x0000000000000001000000000000000006]).writeReg 0 (-9223372036854775808))).u0.pc = 1 := by decide

/-! ## Communication: V-SND, V-RCV -/

/-- `snd p` of unit 1 onto [1, 2] (V-SND). -/
theorem test_snd_cooperative :
    let t := after { loaded .cooperative [0x0000000000000000000000000000000F00] with active := .u1, q0 := [9], q1 := [1, 2] }
    t.q1 = [1, 2, 1] ∧ t.q0 = [9] ∧ t.u1.sentCount = 1 ∧ t.u1.pc = 1 := by decide
theorem test_snd_standalone :
    let t := after ((loaded .standalone [0x0000000000000000000000000000000000]).writeReg 0 4)
    t.u0.lsv = 4 ∧ t.q0 = [] ∧ t.u0.sentCount = 0 ∧ t.u0.pc = 1 := by decide
/-- `rcv a` with a = -1 and lsv = 22 triggers (V-RCV). -/
theorem test_rcv_standalone :
    let t := after (((loaded .standalone [0x0000000000000000000000000000000005]).writeReg 0 (-1)).setLsv 22)
    t.u0.frv = 22 ∧ t.u0.frvLatched = true ∧ t.u0.ustate = .halted ∧ t.u0.pc = 0 ∧ t.u0.reg 0 = -1 ∧ t.phase = .run := by decide
/-- `rcv c` of unit 1 with Q[0] = [10, -20] (V-RCV); its own channel is never read. -/
theorem test_rcv_cooperative :
    let t := after { loaded .cooperative [0x0000000000000000000000000000000205] with active := .u1, q0 := [10, -20], q1 := [3] }
    t.u1.reg 2 = 10 ∧ t.q0 = [-20] ∧ t.q1 = [3] ∧ t.u1.pc = 1 ∧ t.u1.ustate = .running := by decide

/-! ## The machine: V-FETCH, V-VAL, V-SCH -/

/-- A turn that ends at an empty channel, with nothing executed in it. -/
theorem test_turn_ends_at_empty_channel :
    let t := after { loaded .cooperative [0x0000000000000000000000000000000205] with active := .u1, q1 := [3] }
    t.u1.ustate = .suspended ∧ t.u1.pc = 0 ∧ t.q1 = [3] ∧ t.active = .u0 ∧ t.prevZero = true := by decide
theorem test_halts_below :
    (after (atPc (loaded .standalone [0]) (-1))).u0.ustate = .halted ∧ (after (atPc (loaded .standalone [0]) (-1))).u0.pc = -1 := by
  decide
theorem test_halts_at_length : (after (atPc (loaded .standalone [0]) 1)).u0.ustate = .halted := by decide
/-- The lowest index wins, whatever the kind. -/
theorem test_validation_order :
    let t := after (State.resetWith .standalone [0x0000000000000001000000000000000081, 0x2001, 0x3F])
    t.phase = .fault ∧ t.faultCode.number = 2 ∧ t.faultIndex = 1 ∧ t.u0.pc = 0 ∧ t.u0.reg 0 = 0 := by decide
theorem test_validation_empty : (after (State.resetWith .cooperative [])).phase = .run := by decide
/-- The row of V-SCH that ends the run: the scheduler's fields keep their values. -/
theorem test_scheduler_ends :
    let t := after { loaded .cooperative [] with active := .u1, prevZero := true }
    t.phase = .done ∧ t.resultValid = true ∧ t.result = 0 ∧ t.active = .u1 ∧ t.turnProgress = false ∧ t.prevZero = true := by decide
/-- The row of V-SCH with progress: the memory of an empty turn is dropped. -/
theorem test_scheduler_progress :
    let t := after { loaded .cooperative [] with turnProgress := true, prevZero := true }
    t.phase = .run ∧ t.active = .u1 ∧ t.turnProgress = false ∧ t.prevZero = false := by decide
theorem test_standalone_done :
    let t := after ((loaded .standalone []).setUstate .halted)
    t.phase = .done ∧ t.resultValid = false := by decide
theorem test_no_step_when_done :
    stopOf { loaded .standalone [] with phase := .done } = some .runDone ∧
    stopOf { loaded .standalone [] with phase := .fault } = some .runFaulted := by decide

/-! ## The hypotheses of the statements can be met

Each theorem names its statement after `test_hyp_`. A hypothesis of the form `step s = .next t` or `runSteps n s = .next t` is met
for the state `s` of the theorem by the `t` it names or shows to exist. -/

/-- `mod` with each side of its divisor's test, at the boundary. -/
theorem test_hyp_ModTruncatesOrFaults :
    State.reset.resolve (.lit 1) ≠ 0 ∧ State.reset.resolve (.lit (-1)) ≠ 0 ∧ State.reset.resolve (.reg 0) = 0 := by decide
theorem test_hyp_SameRegisterUsesOldValue : (State.reset.writeReg 25 (-1)).readReg 25 ≠ 0 ∧ State.reset.readReg 25 = 0 := by decide
theorem test_hyp_RemainderLaw :
    (1 : Word) ≠ 0 ∧ -9223372036854775808 < (-9223372036854775807 : Word).toInt := by decide
theorem test_hyp_MinModMinusOneIsZero :
    let s := State.reset.writeReg 0 (-9223372036854775808)
    (s.readReg 0).toInt = -(2 ^ 63) ∧ (s.resolve (.lit (-1))).toInt = -1 := by decide
theorem test_hyp_JgzJumpsIfPositive :
    0 < (State.reset.resolve (.lit 1)).toInt ∧ (State.reset.resolve (.lit 0)).toInt ≤ 0 ∧
    (State.reset.resolve (.lit (-9223372036854775808))).toInt ≤ 0 := by decide
/-- The first and the last index of a program of two words. -/
theorem test_hyp_WrappedTargetAgrees :
    let s := loaded .standalone [0, 0]
    Memory.wf s.prog = true ∧ s.inProgram 0 = true ∧ s.inProgram 1 = true ∧ s.inProgram 2 = false := by decide
/-- `jgz 1 0` in both modes. -/
theorem test_hyp_JumpToItselfNeverEnds :
    let s := loaded .standalone [0x00000000000000000000000000000001C6]
    let c := { loaded .cooperative [0x00000000000000000000000000000001C6] with turnProgress := true }
    s.pending = some (.jgz (.lit 1) (.lit 0)) ∧ 0 < (s.resolve (.lit 1)).toInt ∧ s.resolve (.lit 0) = 0 ∧ s.cur.ustate = .running ∧
    s.mode = .standalone ∧ c.pending = some (.jgz (.lit 1) (.lit 0)) ∧ c.cur.ustate = .running ∧ c.turnProgress = true := by decide
/-- `StandaloneSndRemembers` and `StandaloneRcvRecovers`, with each side of the second one's test. -/
theorem test_hyp_StandaloneRcvRecovers :
    let s := (loaded .standalone []).writeReg 0 (-1)
    s.mode = .standalone ∧ s.readReg 0 ≠ 0 ∧ s.readReg 1 = 0 := by decide
/-- `CooperativeSndPushes` and `CooperativeRcvReceivesOrSuspends`, with each side of the second one's test. -/
theorem test_hyp_CooperativeRcvReceivesOrSuspends :
    let s := { loaded .cooperative [] with q1 := [7] }
    s.mode = .cooperative ∧ s.chan s.executing.other = 7 :: [] ∧
    ({ s with active := .u1 }).chan ({ s with active := .u1 }).executing.other = [] := by decide
theorem test_hyp_SuspendedRetriesAsRunning :
    let s := loaded .cooperative [0x0000000000000000000000000000000005]
    s.mode = .cooperative ∧ s.instrAt s.cur.pc = some (.rcv 0) := by decide
/-- `snd 1` from reset, two steps: also for `SentCountCountsSends` and `ProgramAndModeAreFixed`. -/
theorem test_hyp_ChannelsAreFifo :
    let s := State.resetWith .cooperative [0x0000000000000000000000000000000140]
    s.mode = .cooperative ∧ (∃ t, runSteps 2 s = .next t) ∧ sentIn .u0 2 s = [1] := ⟨by decide, ⟨_, rfl⟩, by decide⟩
/-- `rcv a` with a = 1 recovers in one step, and a latch reached in no other way. -/
theorem test_hyp_RecoveredValueIsLastSent :
    let s := ((loaded .standalone [0x0000000000000000000000000000000005]).writeReg 0 1).setLsv 22
    s.mode = .standalone ∧ s.u0.frvLatched = false ∧ ∃ t, runSteps 1 s = .next t ∧ t.u0.frvLatched = true ∧ t.u0.frv = 22 :=
  ⟨by decide, by decide, _, rfl, by decide, by decide⟩
/-- A cooperative step at which the turn passes; a step exists too for the cooperative clause of `OtherModesRegistersAreInert`. -/
theorem test_hyp_OnlyActiveUnitChanges :
    let s := loaded .cooperative []
    s.phase = .run ∧ s.mode = .cooperative ∧ ∃ t, step s = .next t ∧ t.active ≠ s.active := ⟨by decide, by decide, _, rfl, by decide⟩
theorem test_hyp_HaltedUnitStaysHalted :
    let s := (loaded .cooperative []).setUstate .halted
    (s.unit .u0).ustate = .halted ∧ ∃ t, step s = .next t := ⟨by decide, _, rfl⟩
/-- A standalone step: also for the standalone clauses of `OtherModesRegistersAreInert` and `SentCountCountsSends`. -/
theorem test_hyp_ChannelEndsAreOwned :
    let s := loaded .standalone [0]
    s.mode = .standalone ∧ ∃ t, step s = .next t := ⟨by decide, _, rfl⟩
theorem test_hyp_SilentInstructionsIgnoreMode :
    let s := loaded .standalone []
    let c := loaded .cooperative []
    (Instr.add 0 (.lit 1)).silent = true ∧ s.cur.regs = c.cur.regs ∧ s.phase = .run ∧ c.phase = .run := by decide
/-- The whole premise of `SilentInstructionsIgnoreMode`, by the two units' equality. -/
theorem test_hyp_SilentInstructionsIgnoreMode_cur : (loaded .standalone []).cur = (loaded .cooperative []).cur := by
  simp only [loaded, State.cur, State.executing, State.resetWith, State.unit, ExecUnit.reset]
  congr 1
/-- The one-word program `add a 1`, after one step in each mode. -/
theorem test_hyp_UnitZeroAgreesAcrossModes :
    let s := loaded .standalone [0x0000000000000001000000000000000082]
    let c := loaded .cooperative [0x0000000000000001000000000000000082]
    s.mode = .standalone ∧ c.mode = .cooperative ∧ c.active = .u0 ∧ s.phase = c.phase ∧ s.prog = c.prog ∧ s.u0 = c.u0 ∧
    s.prog.all silentWord = true ∧ ∃ t, runSteps 1 s = .next t ∧ t.phase ≠ .done :=
  ⟨by decide, by decide, by decide, by decide, by decide, test_hyp_SilentInstructionsIgnoreMode_cur, by decide, _, rfl, by decide⟩
/-- In both modes. -/
theorem test_hyp_StepRunsDecodedInstruction :
    let s := loaded .standalone [0x0000000000000001000000000000000082]
    let c := loaded .cooperative [0x0000000000000001000000000000000082]
    s.phase = .run ∧ s.cur.ustate ≠ .halted ∧ s.fetch s.cur.pc = some 0x0000000000000001000000000000000082 ∧
    decode 0x0000000000000001000000000000000082 = .ok (.add 0 (.lit 1)) ∧ s.mode = .standalone ∧
    c.phase = .run ∧ c.cur.ustate ≠ .halted ∧ c.fetch c.cur.pc = some 0x0000000000000001000000000000000082 ∧
    c.mode = .cooperative := by decide
/-- The two ends of the bounds check, and a halted unit. -/
theorem test_hyp_UnitHaltsOutsideProgram :
    let s := atPc (loaded .standalone [0]) 1
    let b := atPc (loaded .standalone [0]) (-1)
    s.cur.ustate ≠ .halted ∧ ¬(0 ≤ s.cur.pc.toInt ∧ s.cur.pc.toInt < s.prog.length) ∧
    ¬(0 ≤ b.cur.pc.toInt ∧ b.cur.pc.toInt < b.prog.length) ∧ (s.setUstate .halted).cur.ustate = .halted := by decide
/-- Unit 0 running, and halted. -/
theorem test_hyp_StandaloneStepIsUnitZeros :
    let s := loaded .standalone [0x0000000000000001000000000000000004]
    s.phase = .run ∧ s.mode = .standalone ∧ s.u0.ustate ≠ .halted ∧ (∃ t, step s = .next t ∧ t.phase = .fault) ∧
    (s.setUstate .halted).u0.ustate = .halted ∧ ∃ t, step (s.setUstate .halted) = .next t :=
  ⟨by decide, by decide, by decide, ⟨_, rfl, by decide⟩, by decide, _, rfl⟩
/-- The three rows of the end of a turn, with the step of each; an executed instruction; and a fault. -/
theorem test_hyp_TwoEmptyTurnsEndTheRun :
    let s := loaded .cooperative []
    let e := loaded .cooperative [0x0000000000000000000000000000000140]
    let f := loaded .cooperative [0x0000000000000001000000000000000004]
    s.phase = .run ∧ s.mode = .cooperative ∧ (s.turnProgress = false ∧ s.prevZero = false) ∧
    (∃ u t, unitStep s = .next (.halt, u) ∧ step s = .next t) ∧
    (∃ u t, unitStep { s with prevZero := true } = .next (.halt, u) ∧ step { s with prevZero := true } = .next t ∧ t.phase = .done) ∧
    (∃ u t, unitStep { s with turnProgress := true } = .next (.halt, u) ∧ step { s with turnProgress := true } = .next t) ∧
    (∃ u t, unitStep e = .next (.executed, u) ∧ step e = .next t) ∧ ∃ u t, unitStep f = .next (.fault, u) ∧ step f = .next t :=
  ⟨by decide, by decide, by decide, ⟨_, _, rfl, rfl⟩, ⟨_, _, rfl, rfl, by decide⟩, ⟨_, _, rfl, rfl⟩, ⟨_, _, rfl, rfl⟩, _, _, rfl, rfl⟩
/-- Each outcome of a unit's step. -/
theorem test_hyp_UnitStepOutcomes :
    let s := loaded .cooperative [0x0000000000000000000000000000000005]
    s.phase = .run ∧ (∃ t, unitStep s = .next (.suspend, t)) ∧ (∃ t, unitStep { s with q1 := [7] } = .next (.executed, t)) ∧
    (∃ t, unitStep (atPc s 1) = .next (.halt, t)) ∧ (∃ t, unitStep (s.setUstate .halted) = .next (.idle, t)) ∧
    ∃ t, unitStep (loaded .standalone [0x0000000000000001000000000000000004]) = .next (.fault, t) :=
  ⟨by decide, ⟨_, rfl⟩, ⟨_, rfl⟩, ⟨_, rfl⟩, ⟨_, rfl⟩, _, rfl⟩
/-- `rcv a` in both units on empty channels (P10), and a step that does not pass the turn. -/
theorem test_hyp_FirstTurnCannotEndTheRun :
    let s := loaded .cooperative [0x0000000000000000000000000000000005]
    let e := { s with q1 := [7] }
    s.phase = .run ∧ s.mode = .cooperative ∧ s.turnProgress = false ∧ s.prevZero = false ∧ (∃ t, step s = .next t) ∧
    (∃ t, step e = .next t ∧ t.active = e.active) ∧
    ∀ k, (s.unit k).ustate ≠ .halted ∧ s.atRcv k = true ∧ s.chan k = [] :=
  ⟨by decide, by decide, by decide, by decide, ⟨_, rfl⟩, ⟨_, rfl, by decide⟩, by intro k; cases k <;> decide⟩
/-- A turn of one `snd 1` and then a halt, and an empty turn. -/
theorem test_hyp_TurnLoopFollowsFromSteps :
    let s := loaded .cooperative [0x0000000000000000000000000000000140]
    s.phase = .run ∧ s.mode = .cooperative ∧ s.turnProgress = false ∧ (∃ e, unitTurn 2 s = some (1, e)) ∧
    ∃ e, unitTurn 1 (atPc s 1) = some (0, e) := ⟨by decide, by decide, by decide, ⟨_, rfl⟩, _, rfl⟩
/-- Both outcomes of the validation step: the invalid word at index 1, after a valid one. -/
theorem test_hyp_ValidationPrecedesExecution :
    let s := State.resetWith .standalone [0, 0x3F]
    s.phase = .check ∧ s.prog[1]? = some 0x3F ∧ decode 0x3F = .error .unknownOpcode ∧ s.prog[0]? = some 0 ∧
    decode 0 = .ok (.snd (.reg 0)) ∧ programValid (State.resetWith .standalone [0]).prog = true := by decide
/-- In both modes; the cooperative one in the middle of unit 1's turn, as in P6b. -/
theorem test_hyp_ModByZeroEndsTheRun :
    let s := loaded .standalone [0x0000000000000001000000000000000004]
    let c := { loaded .cooperative [0x0000000000000001000000000000000004] with active := .u1, turnProgress := true }
    s.pending = some (.mod 0 (.reg 1)) ∧ s.resolve (.reg 1) = 0 ∧
    c.pending = some (.mod 0 (.reg 1)) ∧ c.resolve (.reg 1) = 0 := by decide
theorem test_hyp_OnlyModByZeroFaultsInRun :
    let s := loaded .cooperative [0x0000000000000001000000000000000004]
    s.phase = .run ∧ ∃ t, step s = .next t ∧ t.phase = .fault := ⟨by decide, _, rfl, by decide⟩
/-- Two states that differ in a register only, and one in each phase. -/
theorem test_hyp_HostSeesOnlyItsOutputs :
    let s := { State.reset with phase := .done, resultValid := true }
    let t := s.writeReg 0 1
    s.phase = t.phase ∧ s.faultCode = t.faultCode ∧ s.faultIndex = t.faultIndex ∧ s.resultValid = t.resultValid ∧
    s.result = t.result ∧ s.u0.reg 0 ≠ t.u0.reg 0 ∧ State.reset.phase = .check ∧
    ({ State.reset with phase := .fault }).phase = .fault := by decide
/-- Each clause of `BytesDecodeToInstruction` has its witness in `test_bytes_decode`, those of `InvalidWordsAreExactlyListed` in the
`test_bad_` theorems, and a decoding word for `EncodeAndDecodeAgree` and `HeaderByteOfEachForm` in the `test_decode_` theorems. -/
theorem test_hyp_ResetMeetsInvariant : Memory.wf [0x3F, 0] = true := by decide

/-- A state just before the end of a dead run meets the invariant (P10 after its first turn): `StepKeepsInvariant` and
`DetectorStopsOnlyDeadRuns`. -/
theorem test_hyp_StepKeepsInvariant :
    let s := { loaded .cooperative [0x0000000000000000000000000000000005] with
      prevZero := true, active := .u1,
      u0 := { (loaded .cooperative []).u0 with ustate := .suspended } }
    s.Inv ∧ s.mode = .cooperative ∧ s.phase = .run ∧ ∃ t, step s = .next t ∧ t.phase = .done := by
  refine ⟨⟨by decide, by decide, by decide, by decide, ?_, ?_, by decide, fun _ h => absurd h (by decide)⟩, by decide, by decide,
    _, rfl, by decide⟩
  · intro k; cases k <;> decide
  · intro k; cases k <;> decide

/-- States in phase CHECK, DONE and FAULT that meet the invariant, for `StepEnabledExactlyBeforeTheEnd`. -/
theorem test_hyp_StepEnabledExactlyBeforeTheEnd :
    let d := ({ State.resetWith .standalone [] with phase := .done } : State)
    let f := ({ State.resetWith .standalone [0x3F] with phase := .fault, faultCode := .unknownOpcode } : State)
    d.Inv ∧ d.phase = .done ∧ f.Inv ∧ f.phase = .fault := by
  refine ⟨⟨by decide, by decide, by decide, by decide, ?_, ?_, by decide, fun h => absurd h (by decide)⟩, by decide,
    ⟨by decide, by decide, by decide, by decide, ?_, ?_, by decide, fun h => absurd h (by decide)⟩, by decide⟩ <;>
  · intro k; cases k <;> decide

/-- A dead run with the units in both ways dead: one at a `rcv` with nothing to receive, one outside the program. -/
theorem test_hyp_DeadRunsEndWithinThreeSteps :
    let s := { loaded .cooperative [0x0000000000000000000000000000000005] with
      turnProgress := true, u1 := { (loaded .cooperative []).u1 with pc := 1 } }
    s.mode = .cooperative ∧ s.phase = .run ∧ s.blocked .u0 = true ∧ s.inProgram (s.unit .u1).pc = false := by decide

end Sys2Proof.Tests
end

/-! # What a step leaves unchanged, and the values a step sends

Facts about the state's operations and the step that the statements about units, runs and the invariant use. -/

namespace Sys2Proof.Machine

/-! ## Frames of the bookkeeping around an instruction -/

theorem State.unit_setCur_eq (s : State) (u : ExecUnit) (k : UnitId) :
    (s.setCur u).unit k = if k = s.executing then u else s.unit k := by
  rw [State.setCur, State.unit_setUnit]

@[simp] theorem validationStep_unit (s : State) (k : UnitId) : (validationStep s).unit k = s.unit k := by
  unfold validationStep
  split <;> cases k <;> rfl

@[simp] theorem validationStep_chan (s : State) (k : UnitId) : (validationStep s).chan k = s.chan k := by
  unfold validationStep
  split <;> cases k <;> rfl

@[simp] theorem validationStep_mode (s : State) : (validationStep s).mode = s.mode := by
  unfold validationStep
  split <;> rfl

@[simp] theorem endTurn_unit (s : State) (k : UnitId) : (endTurn s).unit k = s.unit k := by
  unfold endTurn
  split <;> cases k <;> rfl

@[simp] theorem endTurn_chan (s : State) (k : UnitId) : (endTurn s).chan k = s.chan k := by
  unfold endTurn
  split <;> cases k <;> rfl

@[simp] theorem endTurn_mode (s : State) : (endTurn s).mode = s.mode := by
  unfold endTurn
  split <;> rfl

@[simp] theorem afterUnitStep_unit (o : UnitOutcome) (s : State) (k : UnitId) : (afterUnitStep o s).unit k = s.unit k := by
  cases o with
  | executed | fault => cases k <;> rfl
  | suspend | halt | idle => exact endTurn_unit s k

@[simp] theorem afterUnitStep_chan (o : UnitOutcome) (s : State) (k : UnitId) : (afterUnitStep o s).chan k = s.chan k := by
  cases o with
  | executed | fault => cases k <;> rfl
  | suspend | halt | idle => exact endTurn_chan s k

@[simp] theorem afterUnitStep_mode (o : UnitOutcome) (s : State) : (afterUnitStep o s).mode = s.mode := by
  cases o with
  | executed | fault => rfl
  | suspend | halt | idle => exact endTurn_mode s

theorem setUstate_eq (s : State) (st : UState) : s.setUstate st = s.setCur { s.cur with ustate := st } := rfl

theorem cur_standalone {s : State} (h : s.mode = .standalone) : s.cur = s.u0 := by
  rw [State.cur, executing_standalone h]
  rfl

/-! ## The validation step (R70) -/

theorem wordOk_iff {w : InstrWord} : wordOk w = true ↔ ∃ i, decode w = .ok i := by
  unfold wordOk
  cases decode w <;> simp

theorem firstInvalid_eq_none_iff (m : Memory) (a : Nat) : firstInvalid m a = none ↔ programValid m = true := by
  induction m generalizing a with
  | nil => simp [firstInvalid, programValid]
  | cons w ws ih => cases hd : decode w <;> simp_all [firstInvalid, programValid, wordOk]

/-- The validation step of a valid program starts the run. -/
theorem validationStep_valid {s : State} (h : programValid s.prog = true) : validationStep s = { s with phase := .run } := by
  simp [validationStep, (firstInvalid_eq_none_iff s.prog 0).2 h]

/-- The validation step of a program with an invalid word raises a decode error. -/
theorem validationStep_invalid {s : State} (h : programValid s.prog = false) :
    ∃ f a, validationStep s = s.raise (.ofDecode f) a := by
  cases hf : firstInvalid s.prog 0 with
  | none => simp [(firstInvalid_eq_none_iff s.prog 0).1 hf] at h
  | some p => exact ⟨p.2, BitVec.ofNat 64 p.1, by simp [validationStep, hf]⟩

/-! ## What an executed instruction leaves unchanged -/

section ExecCase
variable {s t : State} {i : Instr}

theorem ExecCase.mode_eq (h : ExecCase s i t) : t.mode = s.mode := by
  cases h <;> simp

theorem ExecCase.prog_eq (h : ExecCase s i t) : t.prog = s.prog := by
  cases h <;> simp

/-- Only the executing unit changes (R66). -/
theorem ExecCase.unit_other (h : ExecCase s i t) {k : UnitId} (hk : k ≠ s.executing) : t.unit k = s.unit k := by
  cases h <;> simp [State.unit_setCur_eq, hk]

/-- An instruction changes nothing outside the executing unit and the channels, or raises ModByZero. -/
theorem ExecCase.sameOutside_or_raise (h : ExecCase s i t) : SameOutside s t ∨ t = s.raise .modByZero s.cur.pc := by
  cases h with
  | quiet | remember | recover | wait => exact .inl (sameOutside_setCur _ _)
  | send | receive => exact .inl (sameOutside_setChan_setCur _ _ _ _)
  | modZero => exact .inr rfl

/-- The instructions of `ExecCase.quiet` are not `snd`. -/
theorem ne_snd_of_quiet (h : i.silent = true ∨ (s.mode = .standalone ∧ ∃ r, i = .rcv r)) (x : Operand) : i ≠ .snd x := by
  rintro rfl
  simp [Instr.silent] at h

/-- R15, R16: no cooperative instruction writes `lsv`, `frv` or the latch. -/
theorem ExecCase.cooperative_modeRegs (h : ExecCase s i t) (hm : s.mode = .cooperative) (k : UnitId) :
    (t.unit k).lsv = (s.unit k).lsv ∧ (t.unit k).frv = (s.unit k).frv ∧ (t.unit k).frvLatched = (s.unit k).frvLatched := by
  by_cases hk : k = s.executing
  · subst hk
    cases h with
    | quiet _ _ _ _ hu => simpa using ⟨hu.lsv, hu.frv, hu.frvLatched⟩
    | remember _ h | recover _ h => simp [hm] at h
    | send | receive | wait | modZero => simp [State.unit_setCur_eq, State.cur]
  · simp [h.unit_other hk]

/-- R17: no standalone instruction writes `sent_count`. -/
theorem ExecCase.standalone_sentCount (h : ExecCase s i t) (hm : s.mode = .standalone) (k : UnitId) :
    (t.unit k).sentCount = (s.unit k).sentCount := by
  by_cases hk : k = s.executing
  · subst hk
    cases h with
    | quiet _ _ _ _ hu => simpa [State.cur] using hu.sentCount
    | remember | recover | modZero => simp [State.cur]
    | send _ h | receive _ _ _ h | wait _ h => simp [hm] at h
  · rw [h.unit_other hk]

end ExecCase

/-! ## The pending instruction -/

theorem pending_eq_some {s : State} (hp : s.phase = .run) (hh : s.cur.ustate ≠ .halted) {i : Instr}
    (hi : s.instrAt s.cur.pc = some i) : s.pending = some i := by
  simp [State.pending, hp, hh, hi]

/-- A pending instruction is that of a unit not halted in phase RUN. -/
theorem instrAt_eq_of_pending {s : State} {i : Instr} (h : s.pending = some i) :
    s.phase = .run ∧ s.cur.ustate ≠ .halted ∧ s.instrAt s.cur.pc = some i := by
  unfold State.pending at h
  split at h
  next hc => exact ⟨hc.1, hc.2, h⟩
  next => cases h

theorem pending_of_check {s : State} (hp : s.phase = .check) : s.pending = none := by
  simp [State.pending, hp]

theorem pending_of_halted {s : State} (hh : s.cur.ustate = .halted) : s.pending = none := by
  simp [State.pending, hh]

theorem pending_of_outside {s : State} (hf : s.fetch s.cur.pc = none) : s.pending = none := by
  simp [State.pending, State.instrAt, hf]

theorem sends_of_pending_none {s : State} (h : s.pending = none) (k : UnitId) : s.sends k = [] := by
  simp [State.sends, h]

/-- Only a `snd` sends. -/
theorem sends_of_ne_snd {s : State} {i : Instr} (h : s.pending = some i) (hi : ∀ x, i ≠ .snd x) (k : UnitId) :
    s.sends k = [] := by
  cases i with
  | snd x => exact absurd rfl (hi x)
  | set | add | mul | mod | rcv | jgz => simp [State.sends, h]

theorem sends_of_snd {s : State} {x : Operand} (h : s.pending = some (.snd x)) (k : UnitId) :
    s.sends k = if s.executing = k then [s.resolve x] else [] := by
  simp [State.sends, h]

/-- A unit that does not execute sends nothing. -/
theorem sends_of_ne_executing {s : State} {k : UnitId} (hk : k ≠ s.executing) : s.sends k = [] := by
  unfold State.sends
  split
  next => exact if_neg (Ne.symm hk)
  next => rfl

/-! ## The effect of a step on the units and the channels -/

/-- The channels are as before, and each unit too, but that it may have halted. -/
def AtMostHalts (s t : State) : Prop :=
  ∀ k, t.chan k = s.chan k ∧ (t.unit k = s.unit k ∨ t.unit k = { s.unit k with ustate := .halted })

/-- A step of a unit keeps the mode and the program store; it executes the pending instruction, or, where none is pending, at
most halts the unit. -/
theorem unitStep_effect {s u : State} {o : UnitOutcome} (hp : s.phase = .run) (h : unitStep s = .next (o, u)) :
    u.mode = s.mode ∧ u.prog = s.prog ∧
    ((s.pending = none ∧ AtMostHalts s u) ∨
     ∃ i, s.pending = some i ∧ ExecCase s i u) := by
  obtain ⟨hh, -, rfl⟩ | ⟨-, hf, -, rfl⟩ | ⟨hh, i, hi, he, -⟩ := unitStep_cases h
  · exact ⟨rfl, rfl, .inl ⟨pending_of_halted hh, fun k => ⟨rfl, .inl rfl⟩⟩⟩
  · rw [setUstate_eq]
    refine ⟨by simp, by simp, .inl ⟨pending_of_outside hf, fun k => ⟨by simp, ?_⟩⟩⟩
    by_cases hk : k = s.executing
    · exact .inr (by simp [State.cur, hk])
    · exact .inl (by simp [State.unit_setCur_eq, hk])
  · have hc := exec_case_of_next he
    exact ⟨hc.mode_eq, hc.prog_eq, .inr ⟨i, pending_eq_some hp hh hi, hc⟩⟩

/-- A step keeps the mode and the program store; on the units and the channels it executes the pending instruction, or, where
none is pending, at most halts a unit. -/
theorem step_effect {s t : State} (h : step s = .next t) :
    t.mode = s.mode ∧ t.prog = s.prog ∧
    ((s.pending = none ∧ AtMostHalts s t) ∨
     ∃ i u, s.pending = some i ∧ ExecCase s i u ∧ ∀ k, t.unit k = u.unit k ∧ t.chan k = u.chan k) := by
  obtain ⟨hp, rfl⟩ | ⟨-, hm, hh, rfl⟩ | ⟨hp, -, -, o, hu⟩ | ⟨hp, -, o, u, hu, rfl⟩ := step_cases h
  · exact ⟨by simp, validationStep_prog s, .inl ⟨pending_of_check hp, fun k => ⟨by simp, .inl (by simp)⟩⟩⟩
  · have hc : s.cur.ustate = .halted := by rwa [cur_standalone hm]
    exact ⟨rfl, rfl, .inl ⟨pending_of_halted hc, fun k => ⟨by simp, .inl (by simp)⟩⟩⟩
  · obtain ⟨hmode, hprog, hnone | ⟨i, hi, hc⟩⟩ := unitStep_effect hp hu
    · exact ⟨hmode, hprog, .inl hnone⟩
    · exact ⟨hmode, hprog, .inr ⟨i, t, hi, hc, fun k => ⟨rfl, rfl⟩⟩⟩
  · obtain ⟨hmode, hprog, hnone | ⟨i, hi, hc⟩⟩ := unitStep_effect hp hu
    · exact ⟨by simpa, by simpa [afterUnitStep_prog], .inl ⟨hnone.1, fun k => by simpa using hnone.2 k⟩⟩
    · exact ⟨by simpa, by simpa [afterUnitStep_prog], .inr ⟨i, u, hi, hc, fun k => ⟨by simp, by simp⟩⟩⟩

/-- R72: a halted unit keeps every field in every step, and sends nothing. -/
theorem step_of_halted {s t : State} {k : UnitId} (hh : (s.unit k).ustate = .halted) (h : step s = .next t) :
    t.unit k = s.unit k ∧ s.sends k = [] := by
  obtain ⟨-, -, ⟨hn, hk⟩ | ⟨i, u, hi, hc, hk⟩⟩ := step_effect h
  · refine ⟨?_, sends_of_pending_none hn k⟩
    obtain he | he := (hk k).2
    · exact he
    · rw [he, ← hh]
  · have hne : k ≠ s.executing := by
      rintro rfl
      obtain ⟨-, hnot, -⟩ := instrAt_eq_of_pending hi
      exact hnot hh
    exact ⟨by rw [(hk k).1, hc.unit_other hne], sends_of_ne_executing hne⟩

/-! ## Runs -/

theorem runSteps_succ {n : Nat} {s t : State} (h : runSteps (n + 1) s = .next t) :
    ∃ u, step s = .next u ∧ runSteps n u = .next t := by
  unfold runSteps at h
  split at h
  next u hu => exact ⟨u, hu, h⟩
  next => cases h
  next => cases h

theorem runSteps_succ_of_step {s u : State} (n : Nat) (h : step s = .next u) : runSteps (n + 1) s = runSteps n u := by
  simp [runSteps, h]

theorem sentIn_succ {s u : State} (k : UnitId) (n : Nat) (h : step s = .next u) :
    sentIn k (n + 1) s = s.sends k ++ sentIn k n u := by
  simp [sentIn, h]

/-- A run that is over takes no step (R65). -/
theorem runSteps_of_done {n : Nat} {s t : State} (hp : s.phase = .done) (h : runSteps n s = .next t) : t = s := by
  cases n with
  | zero => cases h; rfl
  | succ n =>
    obtain ⟨u, hu, -⟩ := runSteps_succ h
    simp [step, machineStep, hp] at hu

/-- R72: a halted unit keeps every field in every run, and sends nothing. -/
theorem runSteps_of_halted {n : Nat} {s t : State} {k : UnitId} (hh : (s.unit k).ustate = .halted)
    (h : runSteps n s = .next t) : t.unit k = s.unit k ∧ sentIn k n s = [] := by
  induction n generalizing s with
  | zero => cases h; exact ⟨rfl, rfl⟩
  | succ n ih =>
    obtain ⟨u, hu, hr⟩ := runSteps_succ h
    obtain ⟨hk, hs⟩ := step_of_halted hh hu
    obtain ⟨ht, hn⟩ := ih (by rwa [hk]) hr
    exact ⟨ht.trans hk, by rw [sentIn_succ k n hu, hs, hn, List.append_nil]⟩

end Sys2Proof.Machine

/-! # The mode-specific registers over a step and a run (R15 to R17) -/

namespace Sys2Proof.Machine

theorem wrap64_succ (a : Word) : wrap64 (a.toInt + 1) = a + 1 := by
  simp [wrap64, BitVec.ofInt_add, BitVec.ofInt_toInt]

/-! ## One step -/

/-- R15, R16: no cooperative step writes `lsv`, `frv` or the latch of a unit. -/
theorem step_cooperative_modeRegs {s t : State} (hm : s.mode = .cooperative) (h : step s = .next t) (k : UnitId) :
    (t.unit k).lsv = (s.unit k).lsv ∧ (t.unit k).frv = (s.unit k).frv ∧ (t.unit k).frvLatched = (s.unit k).frvLatched := by
  obtain ⟨-, -, ⟨-, hk⟩ | ⟨i, u, -, hc, hk⟩⟩ := step_effect h
  · obtain he | he := (hk k).2 <;> simp [he]
  · rw [(hk k).1]
    exact hc.cooperative_modeRegs hm k

/-- R17: no standalone step writes `sent_count`. -/
theorem step_standalone_sentCount {s t : State} (hm : s.mode = .standalone) (h : step s = .next t) (k : UnitId) :
    (t.unit k).sentCount = (s.unit k).sentCount := by
  obtain ⟨-, -, ⟨-, hk⟩ | ⟨i, u, -, hc, hk⟩⟩ := step_effect h
  · obtain he | he := (hk k).2 <;> simp [he]
  · rw [(hk k).1]
    exact hc.standalone_sentCount hm k

/-- R17, R92: a cooperative instruction adds to `sent_count` the number of values sent. -/
theorem ExecCase.cooperative_sentCount {s t : State} {i : Instr} (hi : s.pending = some i) (h : ExecCase s i t)
    (hm : s.mode = .cooperative) (k : UnitId) :
    (t.unit k).sentCount = (s.unit k).sentCount + BitVec.ofNat 64 (s.sends k).length := by
  by_cases hk : k = s.executing
  · subst hk
    cases h with
    | quiet _ _ hq _ hu => simpa [sends_of_ne_snd hi (ne_snd_of_quiet hq), State.cur] using hu.sentCount
    | remember _ h | recover _ h => simp [hm] at h
    | send x _ => simp [sends_of_snd hi, wrap64_succ, State.unit_setCur_eq, State.cur]
    | receive | wait | modZero => simp [sends_of_ne_snd hi, State.unit_setCur_eq, State.cur]
  · simp [h.unit_other hk, sends_of_ne_executing hk]

theorem step_cooperative_sentCount {s t : State} (hm : s.mode = .cooperative) (h : step s = .next t) (k : UnitId) :
    (t.unit k).sentCount = (s.unit k).sentCount + BitVec.ofNat 64 (s.sends k).length := by
  obtain ⟨-, -, ⟨hn, hk⟩ | ⟨i, u, hi, hc, hk⟩⟩ := step_effect h
  · obtain he | he := (hk k).2 <;> simp [he, sends_of_pending_none hn]
  · rw [(hk k).1]
    exact hc.cooperative_sentCount hi hm k

/-- R91, R94: in a standalone step from an unlatched unit 0, `lsv` becomes the value sent, if one is, and a latch takes `lsv` and
halts the unit. -/
theorem step_standalone_recovery {s t : State} (hm : s.mode = .standalone) (hl : s.u0.frvLatched = false)
    (h : step s = .next t) :
    t.u0.lsv = (s.sends .u0).getLastD s.u0.lsv ∧
    (t.u0.frvLatched = true → t.u0.frv = t.u0.lsv ∧ t.u0.ustate = .halted) := by
  have hcur := cur_standalone hm
  obtain ⟨-, -, ⟨hn, hk⟩ | ⟨i, u, hi, hc, hk⟩⟩ := step_effect h
  · have hu : t.u0 = s.u0 ∨ t.u0 = { s.u0 with ustate := .halted } := (hk .u0).2
    obtain he | he := hu <;> simp [he, sends_of_pending_none hn, hl]
  · have ht : t.u0 = u.cur := by
      rw [cur_standalone (hc.mode_eq.trans hm)]
      exact (hk .u0).1
    rw [ht]
    cases hc with
    | quiet _ _ hq _ hv => simp [sends_of_ne_snd hi (ne_snd_of_quiet hq), hv.lsv, hv.frvLatched, hcur, hl]
    | remember x => simp [sends_of_snd hi, hm, hcur, hl]
    | recover r => simp [sends_of_ne_snd hi, hcur, hl]
    | modZero => simp [sends_of_ne_snd hi, hcur, hl]
    | send _ h | receive _ _ _ h | wait _ h => simp [hm] at h

/-! ## Steps and runs: the obligations -/

/-- Settles O32: each half is the frame of one step in that mode. -/
theorem otherModesRegistersAreInert : Obligations.OtherModesRegistersAreInert :=
  fun _ _ k h => ⟨fun hm => step_cooperative_modeRegs hm h k, fun hm => step_standalone_sentCount hm h k⟩

/-- Settles O27, by induction on the number of steps. -/
theorem sentCountCountsSends : Obligations.SentCountCountsSends := by
  intro n
  induction n with
  | zero =>
    intro s t k h
    cases h
    simp [sentIn]
  | succ n ih =>
    intro s t k h
    obtain ⟨u, hu, hr⟩ := runSteps_succ h
    obtain ⟨hmode, -⟩ := step_effect hu
    obtain ⟨hcoop, hstand⟩ := ih u t k hr
    refine ⟨fun hm => ?_, fun hm => ?_⟩
    · rw [hcoop (hmode.trans hm), step_cooperative_sentCount hm hu k, sentIn_succ k n hu, List.length_append,
        BitVec.ofNat_add, BitVec.add_assoc]
    · rw [hstand (hmode.trans hm), step_standalone_sentCount hm hu k]

/-- Settles O28, by induction on the number of steps: until the latch, `lsv` is the last value sent; after it, unit 0 is halted. -/
theorem recoveredValueIsLastSent : Obligations.RecoveredValueIsLastSent := by
  intro n
  induction n with
  | zero =>
    intro s t _ hl h ht
    cases h
    simp [hl] at ht
  | succ n ih =>
    intro s t hm hl h ht
    obtain ⟨u, hu, hr⟩ := runSteps_succ h
    obtain ⟨hlsv, hlatch⟩ := step_standalone_recovery hm hl hu
    rw [sentIn_succ .u0 n hu]
    cases hul : u.u0.frvLatched with
    | true =>
      obtain ⟨hfrv, hh⟩ := hlatch hul
      obtain ⟨hsame : t.u0 = u.u0, hnone⟩ := runSteps_of_halted (k := .u0) hh hr
      rw [hsame, hfrv, hlsv, hnone, List.append_nil]
    | false =>
      rw [ih u t ((step_effect hu).1.trans hm) hul hr ht, hlsv]
      simp [List.getLastD_eq_getLast?, List.getLast?_append, Option.getD_or]

end Sys2Proof.Machine

/-! # Reset and the host (R27, R28) -/

namespace Sys2Proof.Machine

/-! ## Reset -/

theorem reset_reg (m : Mode) (k : UnitId) (i : RegIdx) :
    (ExecUnit.reset m k).reg i = if m = .cooperative ∧ i.val = 15 then k.identity else 0 := by
  cases m with
  | standalone => simp [ExecUnit.reg, ExecUnit.reset, resetRegs]
  | cooperative => simp [ExecUnit.reg, ExecUnit.reset, resetRegs, regP, Vector.getElem_set, eq_comm]

@[simp] theorem resetWith_unit (m : Mode) (prog : Memory) (k : UnitId) :
    (State.resetWith m prog).unit k = ExecUnit.reset m k := by
  cases k <;> rfl

@[simp] theorem resetWith_chan (m : Mode) (prog : Memory) (k : UnitId) : (State.resetWith m prog).chan k = [] := by
  cases k <;> rfl

/-- After reset the invariant asks only for the bound on the program: the phase is CHECK, both units are RUNNING and unlatched, and
no empty turn is remembered. -/
theorem resetWith_inv (m : Mode) {prog : Memory} (h : Memory.wf prog = true) : (State.resetWith m prog).Inv where
  progBound := resetWith_wf m h
  progValid hp := by simp [State.resetWith] at hp
  faultRecord := by simp [State.resetWith]
  resultInDone hr := by simp [State.resetWith] at hr
  suspendedAt k hk := by simp [ExecUnit.reset] at hk
  latchedHalted k hk := by simp [ExecUnit.reset] at hk
  emptyTurn _ hz := by simp [State.resetWith] at hz
  doneBlocked _ hp := by simp [State.resetWith] at hp

/-- Settles O47: the registers by `reset_reg`, every other field by the definition of reset. -/
theorem hostResetValues : Obligations.HostResetValues := by
  intro s m prog
  refine ⟨fun k i => ?_, fun k => ?_, resetWith_chan m prog, rfl, rfl, rfl, rfl, rfl, rfl, rfl, rfl, rfl, rfl⟩
  · rw [State.hostReset, resetWith_unit, reset_reg]
  · simp [State.hostReset, ExecUnit.reset]

/-- Settles O50: any program within the bound, and the empty one of the constant. -/
theorem resetMeetsInvariant : Obligations.ResetMeetsInvariant :=
  ⟨fun m _ h => resetWith_inv m h, resetWith_inv .standalone reset_wf⟩

/-! ## The host's view -/

/-- Settles O49: the view's two options are decided by the phase and `result_valid`. -/
theorem hostSeesOnlyItsOutputs : Obligations.HostSeesOnlyItsOutputs := by
  refine ⟨fun s t hp hc hi hv hr => ?_, fun s hp => ?_, fun s hp hv => ?_, fun s hp => ?_⟩
  · have hresult : s.hostView.result = t.hostView.result := by
      simp only [State.hostView, ← hp, ← hv]
      split
      next h => rw [hr h]
      next => rfl
    simp only [State.hostView, HostView.mk.injEq] at hresult ⊢
    exact ⟨hp, hresult, by rw [hp, hc, hi]⟩
  · obtain hp | hp := hp <;> simp [State.hostView, hp]
  · simp [State.hostView, hp, hv]
  · simp [State.hostView, hp]

end Sys2Proof.Machine

/-! # Every step keeps the invariant -/

namespace Sys2Proof.Machine

/-! ## What decides whether a unit is at a `rcv`, or blocked -/

theorem atRcv_congr {s t : State} {k : UnitId} (hp : t.prog = s.prog) (hu : (t.unit k).pc = (s.unit k).pc) :
    t.atRcv k = s.atRcv k := by
  simp [State.atRcv, hu, instrAt_congr hp]

theorem atRcv_executing {s : State} {r : RegIdx} (h : s.instrAt s.cur.pc = some (.rcv r)) : s.atRcv s.executing = true := by
  have h' : s.instrAt (s.unit s.executing).pc = some (.rcv r) := h
  simp [State.atRcv, h', isRcv]

theorem blocked_congr {s t : State} {k : UnitId} (hp : t.prog = s.prog) (hu : t.unit k = s.unit k)
    (hc : t.chan k.other = s.chan k.other) : t.blocked k = s.blocked k := by
  simp [State.blocked, hu, hc, atRcv_congr hp (congrArg ExecUnit.pc hu)]

theorem blocked_of_halted {s : State} {k : UnitId} (h : (s.unit k).ustate = .halted) : s.blocked k = true := by
  simp [State.blocked, h]

theorem blocked_of_waiting {s : State} {k : UnitId} (h : s.atRcv k = true) (hc : s.chan k.other = []) :
    s.blocked k = true := by
  simp [State.blocked, h, hc]

/-! ## The units: suspension and the latch -/

/-- R18: after every step a suspended unit is a cooperative one at a `rcv`. -/
theorem step_suspendedAt {s t : State} (hs : s.Inv) (h : step s = .next t) (k : UnitId)
    (hk : (t.unit k).ustate = .suspended) : t.mode = .cooperative ∧ t.atRcv k = true := by
  obtain ⟨hmode, hprog, heff⟩ := step_effect h
  have unchanged (hu : t.unit k = s.unit k) : t.mode = .cooperative ∧ t.atRcv k = true := by
    rw [hmode, atRcv_congr hprog (congrArg ExecUnit.pc hu)]
    exact hs.suspendedAt k (hu ▸ hk)
  obtain ⟨-, hnone⟩ | ⟨i, u, hi, hc, hu⟩ := heff
  · obtain he | he := (hnone k).2
    · exact unchanged he
    · simp [he] at hk
  · by_cases hex : k = s.executing
    · subst hex
      have huk := (hu s.executing).1
      rw [huk] at hk
      cases hc with
      | wait r hm _ =>
        obtain ⟨-, -, hat⟩ := instrAt_eq_of_pending hi
        have hpc : (t.unit s.executing).pc = (s.unit s.executing).pc := by simp [huk, State.cur]
        exact ⟨hmode.trans hm, by rw [atRcv_congr hprog hpc, atRcv_executing hat]⟩
      | modZero => exact unchanged (by simpa using huk)
      | quiet _ _ _ hr _ => simp [hr] at hk
      | remember | recover | send | receive => simp [State.unit_setCur_eq] at hk
    · exact unchanged (by rw [(hu k).1, hc.unit_other hex])

/-- R16: after every step a latched unit is a halted standalone one. -/
theorem step_latchedHalted {s t : State} (hs : s.Inv) (h : step s = .next t) (k : UnitId)
    (hk : (t.unit k).frvLatched = true) : t.mode = .standalone ∧ (t.unit k).ustate = .halted := by
  have hmode := (step_effect h).1
  by_cases hl : (s.unit k).frvLatched = true
  · obtain ⟨hm, hh⟩ := hs.latchedHalted k hl
    exact ⟨hmode.trans hm, by rwa [(step_of_halted hh h).1]⟩
  · obtain ⟨-, -, ⟨-, hnone⟩ | ⟨i, u, hi, hc, hu⟩⟩ := step_effect h
    · obtain he | he := (hnone k).2 <;> simp [he, hl] at hk
    · rw [(hu k).1] at hk ⊢
      by_cases hex : k = s.executing
      · subst hex
        have hcur : s.cur.frvLatched = false := by simpa [State.cur] using hl
        cases hc with
        | recover r hm => exact ⟨hmode.trans hm, by simp⟩
        | quiet _ _ _ _ hu' => simp [hu'.frvLatched, hcur] at hk
        | modZero => simp [hl] at hk
        | remember | send | receive | wait => simp [State.unit_setCur_eq, hcur] at hk
      · simp [hc.unit_other hex, hl] at hk

/-! ## The outcome of a unit's step, and the phase, the fault record and the result -/

/-- The three ways a unit's step in phase RUN can end (R66): an instruction was executed, the fault was raised, or the unit is
left blocked with nothing of it changed but its state. -/
theorem unitStep_outcome {s u : State} {o : UnitOutcome} (hp : s.phase = .run) (h : unitStep s = .next (o, u)) :
    (o = .executed ∧ SameOutside s u) ∨
    (o = .fault ∧ u = s.raise .modByZero s.cur.pc) ∨
    ((o = .suspend ∨ o = .halt ∨ o = .idle) ∧ u.blocked s.executing = true ∧
      ∃ st, u = s.setCur { s.cur with ustate := st }) := by
  obtain ⟨hh, rfl, rfl⟩ | ⟨-, -, rfl, rfl⟩ | ⟨-, i, hi, he, rfl⟩ := unitStep_cases h
  · have hsame : u = u.setCur { u.cur with ustate := .halted } := by
      rw [← hh]
      exact (State.setUnit_unit u u.executing).symm
    exact .inr (.inr ⟨by simp, blocked_of_halted hh, .halted, hsame⟩)
  · rw [setUstate_eq]
    exact .inr (.inr ⟨by simp, blocked_of_halted (by simp), .halted, rfl⟩)
  · have hc := exec_case_of_next he
    obtain ⟨ho, hphase⟩ | ⟨ho, -, -, ⟨r, rfl⟩, hq, rfl⟩ | ⟨ho, rfl, -⟩ := outcomeAfter_of_case hp hc
    · obtain hout | rfl := hc.sameOutside_or_raise
      · exact .inl ⟨ho, hout⟩
      · simp at hphase
    · have hat : (s.setCur { s.cur with ustate := .suspended }).atRcv s.executing = true := by
        rw [atRcv_congr (s := s) (by simp) (by simp [State.cur]), atRcv_executing hi]
      have hempty : (s.setCur { s.cur with ustate := .suspended }).chan s.executing.other = [] :=
        (State.chan_setCur _ _ _).trans hq
      exact .inr (.inr ⟨.inl ho, blocked_of_waiting hat hempty, .suspended, rfl⟩)
    · exact .inr (.inl ⟨ho, rfl⟩)

theorem afterUnitStep_of_turnEnd {o : UnitOutcome} (h : o = .suspend ∨ o = .halt ∨ o = .idle) (u : State) :
    afterUnitStep o u = endTurn u := by
  obtain rfl | rfl | rfl := h <;> rfl

/-- The end of a turn after an empty one without progress ends the run (R106). -/
theorem endTurn_over {u : State} (h : u.turnProgress = false ∧ u.prevZero = true) :
    endTurn u = u.finish u.u1.sentCount true := if_pos h

/-- Any other end of a turn passes the turn on (R102). -/
theorem endTurn_passes {u : State} (h : ¬(u.turnProgress = false ∧ u.prevZero = true)) :
    endTurn u = { u with prevZero := !u.turnProgress, turnProgress := false, active := u.active.other } := if_neg h

/-- The scheduler's bookkeeping keeps the fault record, and the phase and `result_valid` too unless it ends the run (R102). -/
theorem afterUnitStep_control (o : UnitOutcome) (u : State) :
    (afterUnitStep o u).faultCode = u.faultCode ∧
    ((afterUnitStep o u).phase = .done ∨
     ((afterUnitStep o u).phase = u.phase ∧ (afterUnitStep o u).resultValid = u.resultValid)) := by
  have hend : (endTurn u).faultCode = u.faultCode ∧
      ((endTurn u).phase = .done ∨ ((endTurn u).phase = u.phase ∧ (endTurn u).resultValid = u.resultValid)) := by
    by_cases h : u.turnProgress = false ∧ u.prevZero = true
    · simp [endTurn_over h]
    · simp [endTurn_passes h]
  cases o with
  | executed | fault => simp [afterUnitStep]
  | suspend | halt | idle => exact hend

/-- A step goes on in phase RUN, ends the run, or takes a fault (R65). -/
theorem step_control {s t : State} (h : step s = .next t) :
    (t.phase = .run ∧ t.faultCode = s.faultCode ∧ t.resultValid = s.resultValid ∧
      (s.phase = .run ∨ programValid s.prog = true)) ∨
    (t.phase = .done ∧ t.faultCode = s.faultCode ∧ s.phase = .run) ∨
    (t.phase = .fault ∧ t.faultCode ≠ .none ∧ t.resultValid = false) := by
  obtain ⟨-, rfl⟩ | ⟨hp, -, -, rfl⟩ | ⟨hp, -, -, o, hu⟩ | ⟨hp, -, o, u, hu, rfl⟩ := step_cases h
  · cases hv : programValid s.prog with
    | true => simp [validationStep_valid hv]
    | false =>
      obtain ⟨f, a, hf⟩ := validationStep_invalid hv
      cases f <;> simp [hf, FaultCode.ofDecode]
  · simp [hp]
  · obtain ⟨-, hout⟩ | ⟨-, rfl⟩ | ⟨-, -, st, rfl⟩ := unitStep_outcome hp hu
    · simp [hout.phase, hout.faultCode, hout.resultValid, hp]
    · simp
    · simp [hp]
  · obtain ⟨hfault, hphase⟩ := afterUnitStep_control o u
    obtain ⟨-, hout⟩ | ⟨rfl, rfl⟩ | ⟨-, -, st, rfl⟩ := unitStep_outcome hp hu
    · rw [hout.phase, hout.resultValid, hp] at hphase
      rw [hfault, hout.faultCode]
      tauto
    · simp [afterUnitStep]
    · simp only [State.setCur_phase, State.setCur_resultValid, hp] at hphase
      rw [hfault, State.setCur_faultCode]
      tauto

/-- A step is enabled in CHECK and RUN only (R65). -/
theorem phase_of_step {s t : State} (h : step s = .next t) : s.phase = .check ∨ s.phase = .run := by
  obtain ⟨hp, -⟩ | ⟨hp, -⟩ | ⟨hp, -⟩ | ⟨hp, -⟩ := step_cases h <;> simp [hp]

/-- After every step the program of a begun run is valid (R67), the fault record stands exactly in FAULT (R21), and a valid result
only in DONE (R22). -/
theorem step_runControl {s t : State} (hs : s.Inv) (h : step s = .next t) :
    (t.phase = .run ∨ t.phase = .done → programValid s.prog = true) ∧ (t.faultCode = .none ↔ t.phase ≠ .fault) ∧
    (t.resultValid = true → t.phase = .done) := by
  have hphase := phase_of_step h
  have hcode : s.faultCode = .none := hs.faultRecord.2 (by obtain hp | hp := hphase <;> simp [hp])
  have hresult : s.resultValid = false := by
    by_contra hr
    have hd := hs.resultInDone (by simpa using hr)
    simp [hd] at hphase
  obtain ⟨hp, hf, hr, hv⟩ | ⟨hp, hf, hv⟩ | ⟨hp, hf, hr⟩ := step_control h
  · exact ⟨fun _ => hv.elim (fun hrun => hs.progValid (.inl hrun)) id, by simp [hp, hf, hcode], by simp [hr, hresult]⟩
  · exact ⟨fun _ => hs.progValid (.inl hv), by simp [hp, hf, hcode], fun _ => hp⟩
  · exact ⟨by simp [hp], by simp [hp, hf], by simp [hr]⟩

/-! ## The scheduler's memory of an empty turn (R110) -/

/-- What the invariant says of the scheduler: the unit of a remembered empty turn is still blocked, and in DONE both are. -/
def State.SchedulerInv (s : State) : Prop :=
  (s.prevZero = true → s.turnProgress = false → s.blocked s.active.other = true) ∧
  (s.phase = .done → ∀ k, s.blocked k = true)

theorem endTurn_schedulerInv {u : State} (hp : u.phase = .run) (ha : u.blocked u.active = true)
    (he : u.prevZero = true → u.turnProgress = false → u.blocked u.active.other = true) : (endTurn u).SchedulerInv := by
  have hb (k : UnitId) : (endTurn u).blocked k = u.blocked k :=
    blocked_congr (afterUnitStep_prog .idle u) (endTurn_unit u k) (endTurn_chan u k.other)
  by_cases hover : u.turnProgress = false ∧ u.prevZero = true
  · have hall (k : UnitId) : (endTurn u).blocked k = true := by
      rw [hb]
      obtain rfl | rfl := UnitId.eq_or_other k u.active
      · exact ha
      · exact he hover.2 hover.1
    exact ⟨fun _ _ => hall _, fun _ => hall⟩
  · have hactive : (endTurn u).active.other = u.active := by simp [endTurn_passes hover]
    have hphase : (endTurn u).phase = .run := by simp [endTurn_passes hover, hp]
    exact ⟨fun _ _ => by rw [hactive, hb, ha], fun hd => by simp [hphase] at hd⟩

/-- A scheduler step keeps the scheduler's part: an executed instruction is progress, and a turn that ends leaves its unit
blocked and the other one as it was. -/
theorem schedulerStep_schedulerInv {s u : State} {o : UnitOutcome} (hs : s.SchedulerInv) (hp : s.phase = .run)
    (hm : s.mode = .cooperative) (h : unitStep s = .next (o, u)) : (afterUnitStep o u).SchedulerInv := by
  have hex := executing_cooperative hm
  obtain ⟨rfl, hout⟩ | ⟨rfl, rfl⟩ | ⟨ho, hb, st, rfl⟩ := unitStep_outcome hp h
  · have hphase : u.phase = .run := hout.phase.trans hp
    exact ⟨by simp [afterUnitStep], by simp [afterUnitStep, hphase]⟩
  · refine ⟨fun hz hpr => ?_, by simp [afterUnitStep]⟩
    rw [afterUnitStep, State.raise_active, blocked_congr (t := s.raise .modByZero s.cur.pc) (s := s) rfl (by simp) (by simp)]
    exact hs.1 hz hpr
  · rw [afterUnitStep_of_turnEnd ho]
    refine endTurn_schedulerInv (by simpa) (by simpa [hex] using hb) fun hz hpr => ?_
    rw [State.setCur_active, blocked_congr (s := s) (by simp) (by simp [State.unit_setCur_eq, hex]) (by simp)]
    exact hs.1 (by simpa using hz) (by simpa using hpr)

theorem validationStep_schedulerInv {s : State} (hs : s.SchedulerInv) : (validationStep s).SchedulerInv := by
  have hb (k : UnitId) : (validationStep s).blocked k = s.blocked k :=
    blocked_congr (validationStep_prog s) (validationStep_unit s k) (validationStep_chan s k.other)
  cases hv : programValid s.prog with
  | true =>
    rw [State.SchedulerInv]
    simp only [hb]
    exact ⟨by simpa [validationStep_valid hv] using hs.1, by simp [validationStep_valid hv]⟩
  | false =>
    obtain ⟨f, a, hf⟩ := validationStep_invalid hv
    rw [State.SchedulerInv]
    simp only [hb]
    exact ⟨by simpa [hf] using hs.1, by simp [hf]⟩

theorem step_schedulerInv {s t : State} (hs : s.SchedulerInv) (hm : s.mode = .cooperative) (h : step s = .next t) :
    t.SchedulerInv := by
  obtain ⟨-, rfl⟩ | ⟨-, hm', -⟩ | ⟨-, hm', -⟩ | ⟨hp, -, o, u, hu, rfl⟩ := step_cases h
  · exact validationStep_schedulerInv hs
  · simp [hm] at hm'
  · simp [hm] at hm'
  · exact schedulerStep_schedulerInv hs hp hm hu

theorem State.Inv.schedulerInv {s : State} (hs : s.Inv) (hm : s.mode = .cooperative) : s.SchedulerInv :=
  ⟨hs.emptyTurn hm, hs.doneBlocked hm⟩

/-- Settles O51: the units' fields by `step_suspendedAt` and `step_latchedHalted`, the run control's by `step_control`, the
scheduler's by `step_schedulerInv`. -/
theorem stepKeepsInvariant : Obligations.StepKeepsInvariant := by
  intro s t hs h
  obtain ⟨hmode, hprog, -⟩ := step_effect h
  obtain ⟨hvalid, hfault, hresult⟩ := step_runControl hs h
  have hsched (hm : t.mode = .cooperative) : t.SchedulerInv :=
    step_schedulerInv (hs.schedulerInv (hmode ▸ hm)) (hmode ▸ hm) h
  exact {
    progBound := hprog ▸ hs.progBound
    progValid := hprog ▸ hvalid
    faultRecord := hfault
    resultInDone := hresult
    suspendedAt := step_suspendedAt hs h
    latchedHalted := step_latchedHalted hs h
    emptyTurn := fun hm => (hsched hm).1
    doneBlocked := fun hm => (hsched hm).2 }

end Sys2Proof.Machine

/-! # A program without `snd` and `rcv` in both modes (R99) -/

namespace Sys2Proof.Machine

/-! ## The instructions other than `snd` and `rcv` -/

theorem resolve_congr {s c : State} (h : s.cur = c.cur) (x : Operand) : s.resolve x = c.resolve x := by
  cases x <;> simp [State.resolve, State.readReg, h]

/-- A silent instruction leaves the same executing unit, RUNNING, in any two states whose executing units are equal (R75, R86), or
raises ModByZero in both. -/
theorem exec_silent {i : Instr} {s c : State} (hi : i.silent = true) (h : s.cur = c.cur) :
    (∃ u, u.ustate = .running ∧ exec i s = .next (s.setCur u) ∧ exec i c = .next (c.setCur u)) ∨
    (exec i s = .next (s.raise .modByZero s.cur.pc) ∧ exec i c = .next (c.raise .modByZero c.cur.pc)) := by
  have hwrite (r : RegIdx) (v : Word) : ∃ u, u.ustate = .running ∧
      (Host.Outcome.next (s.writeAndAdvance r v) : Answer) = .next (s.setCur u) ∧
      (Host.Outcome.next (c.writeAndAdvance r v) : Answer) = .next (c.setCur u) := by
    simp only [writeAndAdvance_eq, h]
    exact ⟨_, rfl, rfl, rfl⟩
  cases i with
  | snd | rcv => simp [Instr.silent] at hi
  | set r x =>
    simp only [exec, execSet, resolve_congr h]
    exact .inl (hwrite r _)
  | add r x =>
    simp only [exec, execAdd, State.readReg, resolve_congr h, h]
    exact .inl (hwrite r _)
  | mul r x =>
    simp only [exec, execMul, State.readReg, resolve_congr h, h]
    exact .inl (hwrite r _)
  | mod r x =>
    by_cases hz : c.resolve x = 0
    · exact .inr ⟨exec_mod_zero r ((resolve_congr h x).trans hz), exec_mod_zero r hz⟩
    · simp only [exec, execMod, State.readReg, resolve_congr h, h, hz, if_false]
      exact .inl (hwrite r _)
  | jgz x y =>
    simp only [exec, execJgz, resolve_congr h, advance_eq, retire_eq, h]
    split
    · exact .inl ⟨_, rfl, rfl, rfl⟩
    · exact .inl ⟨_, rfl, rfl, rfl⟩

/-! ## Programs of such instructions -/

theorem instrAt_silent {s : State} {a : Word} {i : Instr} (hs : s.prog.all silentWord = true) (h : s.instrAt a = some i) :
    i.silent = true := by
  obtain ⟨w, hf, hd⟩ := instrAt_eq_some.1 h
  have hw : w ∈ s.prog := by
    unfold State.fetch at hf
    split at hf
    · exact List.mem_of_getElem? hf
    · cases hf
  simpa [silentWord, hd] using List.all_eq_true.1 hs w hw

theorem programValid_of_silent {m : Memory} (h : m.all silentWord = true) : programValid m = true := by
  refine List.all_eq_true.2 fun w hw => ?_
  have hsilent := List.all_eq_true.1 h w hw
  cases hd : decode w with
  | ok i => exact wordOk_iff.2 ⟨i, hd⟩
  | error f => simp [silentWord, hd] at hsilent

/-! ## The simulation -/

/-- A standalone and a cooperative state, unit 0 active, that agree on the phase, unit 0 and the program, which has no `snd` and
no `rcv`. -/
structure UnitZeroAligned (s c : State) : Prop where
  standalone  : s.mode = .standalone
  cooperative : c.mode = .cooperative
  active      : c.active = .u0
  phase       : s.phase = c.phase
  prog        : s.prog = c.prog
  unit        : s.u0 = c.u0
  silent      : s.prog.all silentWord = true

/-- The states in which only unit 0's step into DONE is left. -/
def StandaloneHalted (s : State) : Prop := s.mode = .standalone ∧ s.phase = .run ∧ s.u0.ustate = .halted

namespace UnitZeroAligned
variable {s c : State}

theorem executing (h : UnitZeroAligned s c) : s.executing = .u0 ∧ c.executing = .u0 :=
  ⟨executing_standalone h.standalone, (executing_cooperative h.cooperative).trans h.active⟩

theorem cur_eq (h : UnitZeroAligned s c) : s.cur = c.cur := by
  rw [State.cur, State.cur, h.executing.1, h.executing.2]
  exact h.unit

/-- Equal writes of the executing unit keep unit 0 equal. -/
theorem setCur (h : UnitZeroAligned s c) (u : ExecUnit) : (s.setCur u).u0 = u ∧ (c.setCur u).u0 = u := by
  simp [State.setCur, h.executing, State.setUnit]

/-- A silent instruction, with the scheduler's note of progress in cooperative mode, keeps the alignment. -/
theorem setCur_progress (h : UnitZeroAligned s c) (u : ExecUnit) :
    UnitZeroAligned (s.setCur u) { c.setCur u with turnProgress := true } where
  standalone := by simp [h.standalone]
  cooperative := by simp [h.cooperative]
  active := by simp [h.active]
  phase := by simp [h.phase]
  prog := by simp [h.prog]
  unit := (h.setCur u).1.trans (h.setCur u).2.symm
  silent := by simp [h.silent]

/-- Where unit 0 halts outside the program, it does so in both modes. -/
theorem step_outside (h : UnitZeroAligned s c) (hp : s.phase = .run) (hh : s.cur.ustate ≠ .halted)
    (hf : s.fetch s.cur.pc = none) : ∃ d, step c = .next d ∧ d.u0 = (s.setUstate .halted).u0 := by
  have hfc : c.fetch c.cur.pc = none := by rw [← h.cur_eq, State.fetch_congr h.prog.symm, hf]
  refine ⟨_, step_cooperative (h.phase ▸ hp) h.cooperative (unitStep_outside (h.cur_eq ▸ hh) hfc), ?_⟩
  calc (afterUnitStep .halt (c.setUstate .halted)).u0
      = (c.setUstate .halted).u0 := afterUnitStep_unit .halt _ .u0
    _ = { c.cur with ustate := .halted } := (h.setCur _).2
    _ = { s.cur with ustate := .halted } := by rw [h.cur_eq]
    _ = (s.setUstate .halted).u0 := (h.setCur _).1.symm

/-- An instruction of unit 0 keeps the alignment: it is silent, so it is progress or a fault in both modes. -/
theorem step_executes {t : State} {i : Instr} (h : UnitZeroAligned s c) (hp : s.phase = .run) (hh : s.cur.ustate ≠ .halted)
    (hi : s.instrAt s.cur.pc = some i) (he : exec i s = .next t) : ∃ d, step c = .next d ∧ UnitZeroAligned t d := by
  have hpc : c.phase = .run := h.phase ▸ hp
  have hic : c.instrAt c.cur.pc = some i := by rw [← h.cur_eq, instrAt_congr h.prog.symm, hi]
  have hstep {d : State} {o : UnitOutcome} (hd : exec i c = .next d) (ho : outcomeAfter d = o) :
      step c = .next (afterUnitStep o d) :=
    step_cooperative hpc h.cooperative (ho ▸ unitStep_executes (h.cur_eq ▸ hh) hic hd)
  obtain ⟨u, hr, hes, hec⟩ | ⟨hes, hec⟩ := exec_silent (instrAt_silent h.silent hi) h.cur_eq
  · obtain rfl : s.setCur u = t := by simpa [hes] using he
    have ho : outcomeAfter (c.setCur u) = .executed := by simp [outcomeAfter, hpc, hr]
    exact ⟨_, hstep hec ho, h.setCur_progress u⟩
  · obtain rfl : s.raise .modByZero s.cur.pc = t := by simpa [hes] using he
    have ho : outcomeAfter (c.raise .modByZero c.cur.pc) = .fault := by simp [outcomeAfter]
    exact ⟨_, hstep hec ho, { h with phase := rfl }⟩

/-- One step of the standalone machine that does not end the run is matched by one of the cooperative machine; after it the two are
aligned, or unit 0 is halted in both. -/
theorem step_matched {t : State} (h : UnitZeroAligned s c) (hst : step s = .next t) (hd : t.phase ≠ .done) :
    ∃ d, step c = .next d ∧ (UnitZeroAligned t d ∨ (d.u0 = t.u0 ∧ StandaloneHalted t)) := by
  obtain ⟨hp, rfl⟩ | ⟨-, -, -, rfl⟩ | ⟨hp, hm, hh, o, hu⟩ | ⟨-, hm, -⟩ := step_cases hst
  · have hv := programValid_of_silent h.silent
    rw [step_check (h.phase ▸ hp), validationStep_valid hv, validationStep_valid (h.prog ▸ hv)]
    exact ⟨_, rfl, .inl { h with phase := rfl }⟩
  · simp at hd
  · rw [← cur_standalone hm] at hh
    obtain ⟨hh', -⟩ | ⟨-, hf, -, rfl⟩ | ⟨-, i, hi, he, -⟩ := unitStep_cases hu
    · exact absurd hh' hh
    · obtain ⟨d, hstep, hu0⟩ := h.step_outside hp hh hf
      have hhalted : StandaloneHalted (s.setUstate .halted) :=
        ⟨by simp [setUstate_eq, hm], by simp [setUstate_eq, hp], by rw [setUstate_eq, (h.setCur _).1]⟩
      exact ⟨d, hstep, .inr ⟨hu0, hhalted⟩⟩
    · obtain ⟨d, hstep, ha⟩ := h.step_executes hp hh hi he
      exact ⟨d, hstep, .inl ha⟩
  · simp [h.standalone] at hm

end UnitZeroAligned

/-- From a standalone state with unit 0 halted every run of at least one step ends in DONE (R71). -/
theorem runSteps_of_standaloneHalted {n : Nat} {s t : State} (hs : StandaloneHalted s) (h : runSteps n s = .next t)
    (hd : t.phase ≠ .done) : n = 0 := by
  obtain ⟨hm, hp, hh⟩ := hs
  cases n with
  | zero => rfl
  | succ n =>
    rw [runSteps_succ_of_step n (step_standalone_done hp hm hh)] at h
    have ht := runSteps_of_done rfl h
    simp [ht] at hd

theorem runSteps_of_aligned (n : Nat) {s c t : State} (ha : UnitZeroAligned s c) (h : runSteps n s = .next t)
    (hd : t.phase ≠ .done) : ∃ d, runSteps n c = .next d ∧ d.u0 = t.u0 := by
  induction n generalizing s c with
  | zero =>
    cases h
    exact ⟨c, rfl, ha.unit.symm⟩
  | succ n ih =>
    obtain ⟨s', hs', hr⟩ := runSteps_succ h
    have hd' : s'.phase ≠ .done := fun hp => hd (runSteps_of_done hp hr ▸ hp)
    obtain ⟨c', hc', ha' | ⟨hu, hh⟩⟩ := ha.step_matched hs' hd'
    · rw [runSteps_succ_of_step n hc']
      exact ih ha' hr
    · obtain rfl := runSteps_of_standaloneHalted hh hr hd
      cases hr
      exact ⟨c', runSteps_succ_of_step 0 hc', hu⟩

/-- Settles O31, by the simulation `UnitZeroAligned`. -/
theorem unitZeroAgreesAcrossModes : Obligations.UnitZeroAgreesAcrossModes :=
  fun n _ _ _ hs hc hact hphase hprog hunit hsilent h hd =>
    runSteps_of_aligned n ⟨hs, hc, hact, hphase, hprog, hunit, hsilent⟩ h hd

end Sys2Proof.Machine

/-! # The channels and the program store over a step and a run (R31, R33, R98) -/

namespace Sys2Proof.Machine

/-! ## What a step receives -/

theorem receives_of_pending_none {s : State} (h : s.pending = none) (k : UnitId) : s.receives k = [] := by
  simp [State.receives, h]

/-- Only a `rcv` receives. -/
theorem receives_of_ne_rcv {s : State} {i : Instr} (h : s.pending = some i) (hi : ∀ r, i ≠ .rcv r) (k : UnitId) :
    s.receives k = [] := by
  cases i with
  | rcv r => exact absurd rfl (hi r)
  | snd | set | add | mul | mod | jgz => simp [State.receives, h]

theorem receives_of_rcv {s : State} {r : RegIdx} (h : s.pending = some (.rcv r)) (hm : s.mode = .cooperative) (k : UnitId) :
    s.receives k = if s.executing = k then (s.chan k.other).take 1 else [] := by
  simp [State.receives, h, hm]

/-! ## What a step does to the channels -/

/-- R92, R95: a cooperative instruction adds to a channel's end what its writer sends and takes from its head what its reader
receives. -/
theorem ExecCase.chan_fifo {s t : State} {i : Instr} (hi : s.pending = some i) (h : ExecCase s i t)
    (hm : s.mode = .cooperative) (k : UnitId) : s.chan k ++ s.sends k = s.receives k.other ++ t.chan k := by
  cases h with
  | quiet _ _ hq _ _ =>
    have hr (r : RegIdx) : i ≠ .rcv r := by
      rintro rfl
      simp [Instr.silent, hm] at hq
    simp [sends_of_ne_snd hi (ne_snd_of_quiet hq), receives_of_ne_rcv hi hr]
  | remember _ h | recover _ h => simp [hm] at h
  | send x _ =>
    rw [sends_of_snd hi, receives_of_ne_rcv hi (by simp), State.chan_setCur, State.chan_setChan]
    by_cases hk : k = s.executing
    · simp [hk]
    · simp [hk, Ne.symm hk]
  | receive r v rest _ hq =>
    rw [sends_of_ne_snd hi (by simp), receives_of_rcv hi hm, State.chan_setCur]
    obtain rfl | rfl := UnitId.eq_or_other k s.executing
    · simp [State.inbound]
    · rw [State.inbound] at hq
      simp [State.inbound, hq]
  | wait r _ hq =>
    rw [sends_of_ne_snd hi (by simp), receives_of_rcv hi hm, State.chan_setCur]
    obtain rfl | rfl := UnitId.eq_or_other k s.executing
    · simp
    · rw [State.inbound] at hq
      simp [hq]
  | modZero => simp [sends_of_ne_snd hi, receives_of_ne_rcv hi]

theorem step_chan_fifo {s t : State} (hm : s.mode = .cooperative) (h : step s = .next t) (k : UnitId) :
    s.chan k ++ s.sends k = s.receives k.other ++ t.chan k := by
  obtain ⟨-, -, ⟨hn, hk⟩ | ⟨i, u, hi, hc, hk⟩⟩ := step_effect h
  · simp [sends_of_pending_none hn, receives_of_pending_none hn, (hk k).1]
  · rw [(hk k).2]
    exact hc.chan_fifo hi hm k

/-- R33, R35, R36: an instruction appends at most one value to the executing unit's own channel, takes at most the head of the
other, and in standalone mode touches neither. -/
theorem ExecCase.chan_ends {s t : State} {i : Instr} (h : ExecCase s i t) :
    (t.chan s.executing = s.chan s.executing ∨ ∃ v, t.chan s.executing = s.chan s.executing ++ [v]) ∧
    (t.chan s.executing.other = s.chan s.executing.other ∨ ∃ v, s.chan s.executing.other = v :: t.chan s.executing.other) ∧
    (s.mode = .standalone → SameChannels s t) := by
  cases h with
  | quiet | remember | recover | wait | modZero => simp [SameChannels]
  | send x hm => simp [hm]
  | receive r v rest hm hq =>
    rw [State.inbound] at hq
    exact ⟨.inl (by simp [State.inbound]), .inr ⟨v, by simpa [State.inbound] using hq⟩, by simp [hm]⟩

/-! ## Runs -/

theorem receivedIn_succ {s u : State} (k : UnitId) (n : Nat) (h : step s = .next u) :
    receivedIn k (n + 1) s = s.receives k ++ receivedIn k n u := by
  simp [receivedIn, h]

theorem runSteps_mode_prog {n : Nat} {s t : State} (h : runSteps n s = .next t) : t.mode = s.mode ∧ t.prog = s.prog := by
  induction n generalizing s with
  | zero => cases h; exact ⟨rfl, rfl⟩
  | succ n ih =>
    obtain ⟨u, hu, hr⟩ := runSteps_succ h
    obtain ⟨hmode, hprog, -⟩ := step_effect hu
    obtain ⟨hmode', hprog'⟩ := ih hr
    exact ⟨hmode'.trans hmode, hprog'.trans hprog⟩

/-- Settles O26, by induction on the number of steps. -/
theorem channelsAreFifo : Obligations.ChannelsAreFifo := by
  intro n
  induction n with
  | zero =>
    intro s t k _ h
    cases h
    simp [sentIn, receivedIn]
  | succ n ih =>
    intro s t k hm h
    obtain ⟨u, hu, hr⟩ := runSteps_succ h
    have hum : u.mode = .cooperative := (step_effect hu).1.trans hm
    calc s.chan k ++ sentIn k (n + 1) s
        = (s.chan k ++ s.sends k) ++ sentIn k n u := by rw [sentIn_succ k n hu, List.append_assoc]
      _ = s.receives k.other ++ (u.chan k ++ sentIn k n u) := by rw [step_chan_fifo hm hu, List.append_assoc]
      _ = s.receives k.other ++ (receivedIn k.other n u ++ t.chan k) := by rw [ih u t k hum hr]
      _ = receivedIn k.other (n + 1) s ++ t.chan k := by rw [receivedIn_succ k.other n hu, List.append_assoc]

/-- Settles O29: a step that executes no instruction leaves the channels, and an instruction keeps to its ends. -/
theorem channelEndsAreOwned : Obligations.ChannelEndsAreOwned := by
  intro s t h
  obtain ⟨-, -, ⟨-, hk⟩ | ⟨i, u, -, hc, hk⟩⟩ := step_effect h
  · exact ⟨.inl (hk _).1, .inl (hk _).1, fun _ k => (hk k).1⟩
  · simpa only [SameChannels, (hk _).2] using hc.chan_ends

/-- Settles O41: no step of a run writes the mode or the program store. -/
theorem programAndModeAreFixed : Obligations.ProgramAndModeAreFixed := by
  intro n s t h
  obtain ⟨hmode, hprog⟩ := runSteps_mode_prog h
  exact ⟨hmode, by rw [State.progLength, State.progLength, hprog], State.fetch_congr hprog⟩

end Sys2Proof.Machine

/-! # A word placed for the next fetch (R32, R66, log entries 6 and 18) -/

namespace Sys2Proof

/-! ## The fields of a word put together (R45, R53) -/

section mkWord
variable (opc : BitVec 6) (k1 : BitVec 1) (p1 : Word) (k2 : BitVec 1) (p2 : Word)

/-- The bits of a word, field by field (R45). -/
theorem getLsbD_mkWord (j : Nat) : (mkWord opc k1 p1 k2 p2).getLsbD j =
    if j < 6 then opc.getLsbD j else if j < 7 then k1.getLsbD (j - 6) else if j < 8 then k2.getLsbD (j - 7)
    else if j < 72 then p1.getLsbD (j - 8) else p2.getLsbD (j - 72) := by
  unfold mkWord
  rw [BitVec.getLsbD_append (n := 130), BitVec.getLsbD_append (n := 129), BitVec.getLsbD_append (n := 128),
    BitVec.getLsbD_append]
  grind

theorem getLsbD_zero_eq_decide (b : BitVec 1) : b.getLsbD 0 = decide (b = 1) := by
  revert b
  decide

@[simp] theorem mkWord_opc : (mkWord opc k1 p1 k2 p2).opc = opc := by
  ext j hj
  simp [InstrWord.opc, getLsbD_mkWord, hj]

@[simp] theorem mkWord_k1 : (mkWord opc k1 p1 k2 p2).k1 = decide (k1 = 1) :=
  (getLsbD_mkWord opc k1 p1 k2 p2 6).trans (getLsbD_zero_eq_decide k1)

@[simp] theorem mkWord_k2 : (mkWord opc k1 p1 k2 p2).k2 = decide (k2 = 1) :=
  (getLsbD_mkWord opc k1 p1 k2 p2 7).trans (getLsbD_zero_eq_decide k2)

@[simp] theorem mkWord_p1 : (mkWord opc k1 p1 k2 p2).p1 = p1 := by
  ext j hj
  have h : (mkWord opc k1 p1 k2 p2).getLsbD (8 + j) = p1.getLsbD j := by grind [getLsbD_mkWord]
  simpa [InstrWord.p1, hj] using h

@[simp] theorem mkWord_p2 : (mkWord opc k1 p1 k2 p2).p2 = p2 := by
  ext j hj
  have h : (mkWord opc k1 p1 k2 p2).getLsbD (72 + j) = p2.getLsbD j := by grind [getLsbD_mkWord]
  simpa [InstrWord.p2, hj] using h

end mkWord

/-! ## Decoding an encoded operand, and an encoded instruction (R51, R53) -/

theorem regPayload_regBits (r : RegIdx) : regPayload (regBits r) = some r := by
  revert r
  decide

@[simp] theorem decodeRegOnly_regBits (r : RegIdx) : decodeRegOnly false (regBits r) = some r :=
  regPayload_regBits r

@[simp] theorem decodeOperand_payload (x : Operand) : decodeOperand (decide (x.kind = 1#1)) x.payload = some x := by
  cases x with
  | reg r => exact congrArg (Option.map Operand.reg) (regPayload_regBits r)
  | lit v => rfl

@[simp] theorem operandAbsent_zero : operandAbsent false 0#64 = true := rfl

theorem decode_encode (i : Instr) : decode (encode i) = .ok i := by
  cases i with
  | snd | rcv => simp [encode, decode, decodeOne, Opcode.number]
  | set | add | mul | mod | jgz => simp [encode, decode, decodeTwo, Opcode.number]

end Sys2Proof

namespace Sys2Proof.Machine

/-! ## The word that is fetched next -/

theorem fetch_of_getElem? {s : State} {a : Word} {w : InstrWord} (ha : 0 ≤ a.toInt)
    (h : s.prog[a.toInt.toNat]? = some w) : s.fetch a = some w := by
  obtain ⟨hlt, -⟩ := List.getElem?_eq_some_iff.1 h
  have hin : s.inProgram a = true := State.inProgram_iff.2 ⟨ha, by omega⟩
  simp [State.fetch, hin, h]

@[simp] theorem placeWord_phase (s : State) (w : InstrWord) : (placeWord s w).phase = s.phase := by
  unfold placeWord
  split
  · rfl
  · simp

/-- A placed word stands at the executing unit's pc (log entry 18). -/
theorem fetch_placeWord (s : State) (w : InstrWord) : (placeWord s w).fetch (placeWord s w).cur.pc = some w := by
  unfold placeWord
  split
  next h =>
    obtain ⟨hpos, hlen, -⟩ := h
    have hn : s.cur.pc.toInt.toNat ≤ s.prog.length := Int.toNat_le.2 hlen
    have hget : (s.prog.take s.cur.pc.toInt.toNat ++ w :: s.prog.drop (s.cur.pc.toInt.toNat + 1))[s.cur.pc.toInt.toNat]? =
        some w := by simp [hn]
    exact fetch_of_getElem? hpos hget
  next =>
    rw [State.cur_setCur]
    exact fetch_of_getElem? (by simp) (by simp)

@[simp] theorem wakeUnit_phase (s : State) : (wakeUnit s).phase = s.phase := by
  unfold wakeUnit
  split
  · rw [setUstate_eq, State.setCur_phase]
  · rfl

@[simp] theorem wakeUnit_pc (s : State) : (wakeUnit s).cur.pc = s.cur.pc := by
  unfold wakeUnit
  split
  · rw [setUstate_eq, State.cur_setCur]
  · rfl

theorem wakeUnit_not_halted (s : State) : (wakeUnit s).cur.ustate ≠ .halted := by
  unfold wakeUnit
  split
  · simp [setUstate_eq]
  · assumption

theorem pending_wakeUnit_placeWord {s : State} {w : InstrWord} {i : Instr} (hp : s.phase = .run) (hd : decode w = .ok i) :
    (wakeUnit (placeWord s w)).pending = some i := by
  refine pending_eq_some (by simp [hp]) (wakeUnit_not_halted _) ?_
  rw [instrAt_congr (wakeUnit_prog _), wakeUnit_pc]
  exact instrAt_eq_some.2 ⟨w, fetch_placeWord s w, hd⟩

/-- Settles O9: the word is at the pc of a unit that is not halted, and decodes to the instruction it encodes. -/
theorem placedWordIsNext : Obligations.PlacedWordIsNext := by
  intro s i
  have hw : BitVec.ofNat 136 ((encode i).toNat % 2 ^ 136) = encode i := by
    rw [Nat.mod_eq_of_lt (encode i).isLt, BitVec.ofNat_toNat, BitVec.setWidth_eq]
  rw [State.withFetchWord, hw]
  exact pending_wakeUnit_placeWord rfl (decode_encode i)

end Sys2Proof.Machine

/-! # The encoding (R45 to R53) -/

namespace Sys2Proof

/-! ## The word and its fields (R45) -/

section mkWord
variable (opc : BitVec 6) (k1 k2 : BitVec 1) (p1 p2 : Word)

/-- A word put together is the sum of its fields at their places (R45). -/
theorem toNat_mkWord : (mkWord opc k1 p1 k2 p2).toNat
    = opc.toNat + k1.toNat * 2 ^ 6 + k2.toNat * 2 ^ 7 + p1.toNat * 2 ^ 8 + p2.toNat * 2 ^ 72 := by
  unfold mkWord
  rw [BitVec.toNat_append, BitVec.toNat_append, BitVec.toNat_append, BitVec.toNat_append,
    ← Nat.shiftLeft_add_eq_or_of_lt p1.isLt, ← Nat.shiftLeft_add_eq_or_of_lt k2.isLt,
    ← Nat.shiftLeft_add_eq_or_of_lt k1.isLt, ← Nat.shiftLeft_add_eq_or_of_lt opc.isLt]
  simp only [Nat.shiftLeft_eq]
  omega

/-- The header byte of a word: its kind bits and its opcode (R50). -/
theorem header_mkWord : (mkWord opc k1 p1 k2 p2).extractLsb' 0 8 = k2 ++ k1 ++ opc := by
  ext j hj
  grind [getLsbD_mkWord]

end mkWord

/-- A word is its five fields put together (R45). -/
theorem mkWord_fields (w : InstrWord) : mkWord w.opc (.ofBool w.k1) w.p1 (.ofBool w.k2) w.p2 = w := by
  refine BitVec.eq_of_getLsbD_eq fun j hj => ?_
  simp only [getLsbD_mkWord, InstrWord.opc, InstrWord.k1, InstrWord.k2, InstrWord.p1, InstrWord.p2,
    BitVec.getLsbD_extractLsb', BitVec.getLsbD_ofBool]
  obtain h | rfl | rfl | ⟨h8, h72⟩ | h : j < 6 ∨ j = 6 ∨ j = 7 ∨ (8 ≤ j ∧ j < 72) ∨ 72 ≤ j := by omega
  · simp [h]
  · rfl
  · rfl
  · grind
  · grind

/-! ## Operands (R48, R53) -/

theorem toNat_regBits (r : RegIdx) : (regBits r).toNat = r.val :=
  (BitVec.toNat_ofNat ..).trans (Nat.mod_eq_of_lt (by omega))

/-- A payload is its five low bits and the bits above them. -/
theorem payload_toNat (p : Word) : p.toNat = (p.extractLsb' 5 59).toNat * 32 + (p.extractLsb' 0 5).toNat := by
  have hp := p.isLt
  simp only [BitVec.extractLsb'_toNat, Nat.shiftRight_eq_div_pow]
  omega

theorem regPayload_eq_some {p : Word} {r : RegIdx} (h : regPayload p = some r) : p = regBits r := by
  simp only [regPayload, Option.dite_none_right_eq_some, Option.some.injEq] at h
  obtain ⟨⟨hhigh, -⟩, rfl⟩ := h
  apply BitVec.eq_of_toNat_eq
  have hp := payload_toNat p
  rw [hhigh] at hp
  simpa [toNat_regBits] using hp

theorem regPayload_eq_none_iff {p : Word} :
    regPayload p = none ↔ p.extractLsb' 5 59 ≠ 0 ∨ 26 ≤ (p.extractLsb' 0 5).toNat := by
  simp only [regPayload, dite_eq_right_iff, reduceCtorEq, imp_false, not_and_or, Nat.not_le, ne_eq, Nat.lt_iff_add_one_le]

/-- A register-only operand that decodes is the encoding of its register. -/
theorem decodeRegOnly_eq_some {k : Bool} {p : Word} {r : RegIdx} (h : decodeRegOnly k p = some r) :
    BitVec.ofBool k = 0 ∧ p = regBits r := by
  cases k with
  | true => cases h
  | false => exact ⟨rfl, regPayload_eq_some h⟩

/-- An operand that decodes is the encoding of the operand it decodes to. -/
theorem decodeOperand_eq_some {k : Bool} {p : Word} {x : Operand} (h : decodeOperand k p = some x) :
    BitVec.ofBool k = x.kind ∧ p = x.payload := by
  cases k with
  | true => cases h; exact ⟨rfl, rfl⟩
  | false =>
    obtain ⟨r, hr, rfl⟩ := Option.map_eq_some_iff.1 h
    exact ⟨rfl, regPayload_eq_some hr⟩

theorem operandAbsent_eq_true {k : Bool} {p : Word} (h : operandAbsent k p = true) : BitVec.ofBool k = 0 ∧ p = 0 := by
  cases k with
  | true => cases h
  | false => exact ⟨rfl, of_decide_eq_true h⟩

/-! ## The shapes of the decoder, and which one an opcode takes (R51) -/

theorem decodeOne_eq_ok {α : Type} {o1 : Option α} {ok2 : Bool} {mk : α → Instr} {i : Instr}
    (h : decodeOne o1 ok2 mk = .ok i) : ∃ a, o1 = some a ∧ ok2 = true ∧ i = mk a := by
  cases o1 <;> cases ok2 <;> cases h
  exact ⟨_, rfl, rfl, rfl⟩

theorem decodeTwo_eq_ok {α β : Type} {o1 : Option α} {o2 : Option β} {mk : α → β → Instr} {i : Instr}
    (h : decodeTwo o1 o2 mk = .ok i) : ∃ a b, o1 = some a ∧ o2 = some b ∧ i = mk a b := by
  cases o1 <;> cases o2 <;> cases h
  exact ⟨_, _, rfl, rfl, rfl⟩

theorem decodeOne_eq_error_iff {α : Type} {o1 : Option α} {ok2 : Bool} {mk : α → Instr} {f : DecodeFault} :
    decodeOne o1 ok2 mk = .error f ↔ f = .malformedOperand ∧ (o1 = none ∨ ok2 = false) := by
  cases o1 <;> cases ok2 <;> simp [decodeOne, eq_comm]

theorem decodeTwo_eq_error_iff {α β : Type} {o1 : Option α} {o2 : Option β} {mk : α → β → Instr} {f : DecodeFault} :
    decodeTwo o1 o2 mk = .error f ↔ f = .malformedOperand ∧ (o1 = none ∨ o2 = none) := by
  cases o1 <;> cases o2 <;> simp [decodeTwo, eq_comm]

/-- The operands of a word, decoded as opcode `o` takes them (R51). -/
def decodeAs (w : InstrWord) : Opcode → Except DecodeFault Instr
  | .snd => decodeOne (decodeOperand w.k1 w.p1) (operandAbsent w.k2 w.p2) .snd
  | .set => decodeTwo (decodeRegOnly w.k1 w.p1) (decodeOperand w.k2 w.p2) .set
  | .add => decodeTwo (decodeRegOnly w.k1 w.p1) (decodeOperand w.k2 w.p2) .add
  | .mul => decodeTwo (decodeRegOnly w.k1 w.p1) (decodeOperand w.k2 w.p2) .mul
  | .mod => decodeTwo (decodeRegOnly w.k1 w.p1) (decodeOperand w.k2 w.p2) .mod
  | .rcv => decodeOne (decodeRegOnly w.k1 w.p1) (operandAbsent w.k2 w.p2) .rcv
  | .jgz => decodeTwo (decodeOperand w.k1 w.p1) (decodeOperand w.k2 w.p2) .jgz

theorem decode_of_opc {w : InstrWord} {o : Opcode} (h : w.opc = o.number) : decode w = decodeAs w o := by
  cases o <;> simp [decode, h, Opcode.number, decodeAs]

theorem decode_of_unknown {w : InstrWord} (h : 6 < w.opc.toNat) : decode w = .error .unknownOpcode := by
  simp [decode, h]

/-- A 6-bit number is above 6 or numbers one of the seven opcodes (R49). -/
theorem opcode_of_number (n : BitVec 6) : 6 < n.toNat ∨ ∃ o ∈ Machine.vocabulary, n = o.number := by
  revert n
  decide

/-- A word that decodes decodes as one of the seven opcodes. -/
theorem decodeAs_of_decode_eq_ok {w : InstrWord} {i : Instr} (h : decode w = .ok i) :
    ∃ o : Opcode, w.opc = o.number ∧ decodeAs w o = .ok i := by
  obtain hu | ⟨o, -, ho⟩ := opcode_of_number w.opc
  · simp [decode_of_unknown hu] at h
  · exact ⟨o, ho, by rw [← decode_of_opc ho, h]⟩

/-- A word whose operands decode as opcode `o` takes them is the encoding of the instruction (R53). -/
theorem encode_of_decodeAs {w : InstrWord} {o : Opcode} {i : Instr} (h : decodeAs w o = .ok i) :
    encode i = mkWord o.number (.ofBool w.k1) w.p1 (.ofBool w.k2) w.p2 := by
  cases o with
  | snd =>
    obtain ⟨x, hx, habs, rfl⟩ := decodeOne_eq_ok h
    simp [encode, decodeOperand_eq_some hx, operandAbsent_eq_true habs]
  | rcv =>
    obtain ⟨r, hr, habs, rfl⟩ := decodeOne_eq_ok h
    simp [encode, decodeRegOnly_eq_some hr, operandAbsent_eq_true habs]
  | jgz =>
    obtain ⟨x, y, hx, hy, rfl⟩ := decodeTwo_eq_ok h
    simp [encode, decodeOperand_eq_some hx, decodeOperand_eq_some hy]
  | set | add | mul | mod =>
    obtain ⟨r, x, hr, hx, rfl⟩ := decodeTwo_eq_ok h
    simp [encode, decodeRegOnly_eq_some hr, decodeOperand_eq_some hx]

theorem encode_of_decode_eq_ok {w : InstrWord} {i : Instr} (h : decode w = .ok i) : encode i = w := by
  obtain ⟨o, ho, hd⟩ := decodeAs_of_decode_eq_ok h
  rw [encode_of_decodeAs hd, ← ho, mkWord_fields]

/-- Settles O2: the fields of a valid word are those its operands encode to. -/
theorem encodeAndDecodeAgree : Obligations.EncodeAndDecodeAgree :=
  ⟨decode_encode, fun _ _ => encode_of_decode_eq_ok, toNat_mkWord, fun r => ⟨rfl, toNat_regBits r⟩, fun _ => ⟨rfl, rfl⟩,
    fun _ => rfl, fun _ _ => rfl, fun _ _ => rfl, fun _ _ => rfl, fun _ _ => rfl, fun _ => rfl, fun _ _ => rfl⟩

/-- Settles O1: the sum, with the fields' own laws, and the kind bit of each operand that decodes. -/
theorem wordIsSumOfFields : Obligations.WordIsSumOfFields := by
  refine ⟨fun k p o h => ?_, fun opc k1 k2 p1 p2 => ⟨toNat_mkWord .., by simp⟩⟩
  cases k with
  | true => cases h; simp
  | false =>
    obtain ⟨r, -, rfl⟩ := Option.map_eq_some_iff.1 h
    simp

/-! ## Words that are not instructions (R52) -/

theorem decodeOperand_eq_none_iff {k : Bool} {p : Word} :
    decodeOperand k p = none ↔ k = false ∧ regPayload p = none := by
  cases k <;> simp [decodeOperand]

theorem decodeRegOnly_eq_none_iff {k : Bool} {p : Word} :
    decodeRegOnly k p = none ↔ (k = false ∧ regPayload p = none) ∨ k = true := by
  cases k <;> simp [decodeRegOnly]

theorem operandAbsent_eq_false_iff {k : Bool} {p : Word} : operandAbsent k p = false ↔ k = true ∨ p ≠ 0 := by
  cases k <;> simp [operandAbsent]

/-- Settles O3: a word above the seven opcodes is unknown; any other is decoded as its opcode takes it, and fails where an operand
does. -/
theorem invalidWordsAreExactlyListed : Obligations.InvalidWordsAreExactlyListed := by
  intro w badReg
  obtain hu | ⟨o, -, ho⟩ := opcode_of_number w.opc
  · have hle : ¬w.opc.toNat ≤ 6 := by omega
    simpa [decode_of_unknown hu, hle, Nat.succ_le_iff] using hu
  · rw [decode_of_opc ho, ho]
    cases o with
    | snd | rcv =>
      simp [decodeAs, decodeOne_eq_error_iff, decodeOperand_eq_none_iff, decodeRegOnly_eq_none_iff,
        regPayload_eq_none_iff, operandAbsent_eq_false_iff, Opcode.number, badReg, or_assoc]
    | set | add | mul | mod | jgz =>
      simp [decodeAs, decodeTwo_eq_error_iff, decodeOperand_eq_none_iff, decodeRegOnly_eq_none_iff,
        regPayload_eq_none_iff, Opcode.number, badReg, or_assoc, or_comm, or_left_comm]

/-! ## The header byte (R50) -/

/-- The header byte of an instruction's word (R50), form by form. -/
def Instr.header : Instr → Byte
  | .snd (.reg _) => 0x00
  | .snd (.lit _) => 0x40
  | .set _ (.reg _) => 0x01
  | .set _ (.lit _) => 0x81
  | .add _ (.reg _) => 0x02
  | .add _ (.lit _) => 0x82
  | .mul _ (.reg _) => 0x03
  | .mul _ (.lit _) => 0x83
  | .mod _ (.reg _) => 0x04
  | .mod _ (.lit _) => 0x84
  | .rcv _ => 0x05
  | .jgz (.reg _) (.reg _) => 0x06
  | .jgz (.lit _) (.reg _) => 0x46
  | .jgz (.reg _) (.lit _) => 0x86
  | .jgz (.lit _) (.lit _) => 0xC6

theorem header_encode (i : Instr) : (encode i).extractLsb' 0 8 = i.header := by
  unfold Instr.header
  split <;> simp [encode, header_mkWord, Operand.kind, Opcode.number]

/-- Settles O4: a valid word is the encoding of its instruction, so its header byte is in the table too. -/
theorem headerByteOfEachForm : Obligations.HeaderByteOfEachForm := by
  have h := header_encode
  refine ⟨fun _ => h _, fun _ => h _, fun _ _ => h _, fun _ _ => h _, fun _ _ => h _, fun _ _ => h _, fun _ _ => h _,
    fun _ _ => h _, fun _ _ => h _, fun _ _ => h _, fun _ => h _, fun _ _ => h _, fun _ _ => h _, fun _ _ => h _,
    fun _ _ => h _, fun w i hw => ?_⟩
  rw [← encode_of_decode_eq_ok hw, header_encode]
  unfold Instr.header
  split <;> decide

/-! ## Words of the spec's vectors -/

/-- Settles O5, by evaluating the decoder on each word. -/
theorem specWordsDecode : Obligations.SpecWordsDecode := by
  unfold Obligations.SpecWordsDecode
  decide

end Sys2Proof

/-! # The byte image of a word and of a program (R46) -/

namespace Sys2Proof

/-! ## One word -/

@[simp] theorem length_wordBytes (w : InstrWord) : (wordBytes w).length = 17 := by
  simp [wordBytes]

theorem getElem?_wordBytes (w : InstrWord) {j : Nat} (h : j < 17) : (wordBytes w)[j]? = some (w.extractLsb' (8 * j) 8) := by
  simp [wordBytes, h]

/-- Bit `n` of the word of a byte string is bit `n % 8` of byte `n / 8`. -/
theorem getLsbD_bytesWord (bs : List Byte) {n : Nat} (h : n < 136) :
    (bytesWord bs).getLsbD n = (bs[n / 8]?.getD 0).getLsbD (n % 8) := by
  rw [bytesWord, ← List.getElem?_take_of_lt (show n / 8 < 17 by omega)]
  generalize bs.take 17 = l
  induction l generalizing n with
  | nil => simp
  | cons b l ih =>
    rw [List.foldr_cons, BitVec.getLsbD_or, BitVec.getLsbD_shiftLeft, BitVec.getLsbD_setWidth]
    by_cases hn : n < 8
    · simp [hn, h, Nat.div_eq_of_lt hn, Nat.mod_eq_of_lt hn]
    · obtain ⟨m, rfl⟩ : ∃ m, n = m + 8 := ⟨n - 8, by omega⟩
      simpa [h] using ih (n := m) (by omega)

/-- The bytes of a word are read back as the word, whatever follows them. -/
theorem bytesWord_wordBytes_append (w : InstrWord) (rest : List Byte) : bytesWord (wordBytes w ++ rest) = w := by
  refine BitVec.eq_of_getLsbD_eq fun n hn => ?_
  have hj : n / 8 < 17 := by omega
  rw [getLsbD_bytesWord _ hn, List.getElem?_append_left (by simpa using hj), getElem?_wordBytes w hj, Option.getD_some,
    BitVec.getLsbD_extractLsb', Nat.div_add_mod]
  simp [Nat.mod_lt]

theorem drop_wordBytes_append (w : InstrWord) (rest : List Byte) : (wordBytes w ++ rest).drop 17 = rest :=
  List.drop_left' (length_wordBytes w)

/-! ## A program -/

@[simp] theorem programImage_cons (w : InstrWord) (prog : List InstrWord) :
    programImage (w :: prog) = wordBytes w ++ programImage prog := rfl

theorem length_programImage (prog : List InstrWord) : (programImage prog).length = 17 * prog.length := by
  induction prog with
  | nil => rfl
  | cons w prog ih =>
    rw [programImage_cons, List.length_append, length_wordBytes, ih, List.length_cons]
    omega

theorem getElem?_programImage (prog : List InstrWord) (i : Nat) {j : Nat} (h : j < 17) :
    (programImage prog)[17 * i + j]? = prog[i]?.map fun w => w.extractLsb' (8 * j) 8 := by
  induction prog generalizing i with
  | nil => rfl
  | cons w prog ih =>
    rw [programImage_cons]
    cases i with
    | zero =>
      rw [List.getElem?_append_left (by simpa using h), Nat.mul_zero, Nat.zero_add, getElem?_wordBytes w h]
      rfl
    | succ i =>
      have hk : 17 * (i + 1) + j = (wordBytes w).length + (17 * i + j) := by
        rw [length_wordBytes]
        omega
      rw [hk, List.getElem?_append_right (Nat.le_add_right ..), Nat.add_sub_cancel_left, ih]
      rfl

/-- The words read from the image of a program are the program. -/
theorem imageWords_programImage (prog : List InstrWord) : imageWords prog.length (programImage prog) = prog := by
  induction prog with
  | nil => rfl
  | cons w prog ih =>
    rw [programImage_cons, List.length_cons, imageWords, bytesWord_wordBytes_append, drop_wordBytes_append, ih]

theorem programOfImage_programImage (prog : List InstrWord) : programOfImage (programImage prog) = some prog := by
  rw [programOfImage, length_programImage, if_pos (Nat.mul_mod_right 17 _), Nat.mul_div_cancel_left _ (by decide),
    imageWords_programImage]

/-- Settles O6, each clause by induction on the program. -/
theorem byteImageIsLittleEndian : Obligations.ByteImageIsLittleEndian :=
  ⟨fun prog i _ h => getElem?_programImage prog i h, fun prog => ⟨length_programImage prog, programOfImage_programImage prog⟩⟩

/-! ## Decoding a byte string -/

theorem decodeBytes_of_length_lt {bs : List Byte} (h : bs.length < 17) : decodeBytes bs = .error .truncated :=
  if_pos h

/-- Seventeen bytes are never too few: what is wrong with them is wrong with their word. -/
theorem decodeBytes_ne_truncated {bs : List Byte} (h : ¬bs.length < 17) : decodeBytes bs ≠ .error .truncated := by
  rw [decodeBytes, if_neg h]
  cases decode (bytesWord bs) <;> simp

theorem decodeBytes_wordBytes_append {w : InstrWord} {i : Instr} (h : decode w = .ok i) (rest : List Byte) :
    decodeBytes (wordBytes w ++ rest) = .ok (i, rest) := by
  have hlen : ¬(wordBytes w ++ rest).length < 17 := by simp
  rw [decodeBytes, if_neg hlen, bytesWord_wordBytes_append, h, drop_wordBytes_append]

/-- Settles O7: an instruction's bytes are read back as its word, which decodes to it. -/
theorem bytesDecodeToInstruction : Obligations.BytesDecodeToInstruction :=
  ⟨fun i rest => decodeBytes_wordBytes_append (decode_encode i) rest,
    fun _ => ⟨fun h => by_contra fun hlen => decodeBytes_ne_truncated hlen h, decodeBytes_of_length_lt⟩⟩

end Sys2Proof

/-! # The text form (R54 to R58) -/

namespace Sys2Proof.Machine

/-! ## Lines and tokens (R54) -/

/-- A line without a space is one token. -/
theorem tokensOf_of_noSpace {t : Token} (h : ' ' ∉ t) : tokensOf t = [t] := by
  induction t with
  | nil => rfl
  | cons c cs ih =>
    obtain ⟨hc, hcs⟩ := not_or.1 (mt List.mem_cons.2 h)
    simp [tokensOf, Ne.symm hc, ih hcs]

/-- A token ends at the first space. -/
theorem tokensOf_append_space {t : Token} (h : ' ' ∉ t) (rest : List Char) :
    tokensOf (t ++ ' ' :: rest) = t :: tokensOf rest := by
  induction t with
  | nil => simp [tokensOf]
  | cons c cs ih =>
    obtain ⟨hc, hcs⟩ := not_or.1 (mt List.mem_cons.2 h)
    simp [tokensOf, Ne.symm hc, ih hcs]

theorem noSpace_mnemonic (o : Opcode) : ' ' ∉ mnemonic o := by
  cases o <;> decide

theorem opcodeOfToken_mnemonic (o : Opcode) : opcodeOfToken (mnemonic o) = some o := by
  cases o <;> rfl

/-- A printed line of one operand is read as that operand. -/
theorem readLine_printOne (o : Opcode) {a : Token} (ha : ' ' ∉ a) : readLine (printOne o a) = readOperands o [a] := by
  simp [readLine, printOne, tokensOf_append_space (noSpace_mnemonic o), tokensOf_of_noSpace ha, readTokens,
    opcodeOfToken_mnemonic]

/-- A printed line of two operands is read as those operands. -/
theorem readLine_printTwo (o : Opcode) {a b : Token} (ha : ' ' ∉ a) (hb : ' ' ∉ b) :
    readLine (printTwo o a b) = readOperands o [a, b] := by
  simp [readLine, printTwo, tokensOf_append_space (noSpace_mnemonic o), tokensOf_append_space ha, tokensOf_of_noSpace hb,
    readTokens, opcodeOfToken_mnemonic]

/-! ## Digits and literals (R56, R58) -/

theorem toNat_digit {d : Nat} (h : d < 10) : (Char.ofNat (48 + d)).toNat = 48 + d := by
  revert d
  decide

theorem digitValue_digit {d : Nat} (h : d < 10) : digitValue (Char.ofNat (48 + d)) = some d := by
  rw [digitValue, toNat_digit h, if_pos (by omega), Nat.add_sub_cancel_left]

/-- A decimal form consists of digits. -/
theorem mem_decimal {fuel n : Nat} {c : Char} (h : c ∈ decimal fuel n) : 48 ≤ c.toNat ∧ c.toNat ≤ 57 := by
  induction fuel generalizing n with
  | zero => cases h
  | succ fuel ih =>
    unfold decimal at h
    split at h
    next hn =>
      rw [List.mem_singleton.1 h, toNat_digit hn]
      omega
    next =>
      obtain h | h := List.mem_append.1 h
      · exact ih h
      · rw [List.mem_singleton.1 h, toNat_digit (by omega)]
        omega

theorem decimal_ne_nil (fuel n : Nat) : decimal (fuel + 1) n ≠ [] := by
  unfold decimal
  split <;> simp

theorem readDigits_append (acc : Nat) (t u : Token) :
    readDigits acc (t ++ u) = (readDigits acc t).bind fun a => readDigits a u := by
  induction t generalizing acc with
  | nil => rfl
  | cons c cs ih => cases hc : digitValue c <;> simp [readDigits, hc, ih]

/-- Reading the decimal form of a number gives the number, where the fuel allows for its digits. -/
theorem readDigits_decimal {fuel n : Nat} (h : n < 10 ^ fuel) : readDigits 0 (decimal fuel n) = some n := by
  induction fuel generalizing n with
  | zero =>
    obtain rfl : n = 0 := by omega
    rfl
  | succ fuel ih =>
    unfold decimal
    split
    next hn => simp [readDigits, digitValue_digit hn]
    next =>
      have hdiv : n / 10 < 10 ^ fuel := by omega
      have hmod : n % 10 < 10 := Nat.mod_lt n (by decide)
      simp [readDigits_append, ih hdiv, readDigits, digitValue_digit hmod, Nat.div_add_mod]

theorem readNat_decimal {fuel n : Nat} (h : n < 10 ^ (fuel + 1)) : readNat (decimal (fuel + 1) n) = some n := by
  obtain ⟨c, cs, hcs⟩ := List.exists_cons_of_ne_nil (decimal_ne_nil fuel n)
  rw [hcs, readNat, ← hcs, readDigits_decimal h]

/-- A token without a minus sign is read as a number (R56). -/
theorem readLiteral_of_noMinus {t : Token} (h : '-' ∉ t) : readLiteral t = (readNat t).map fun n => (n : Int) := by
  cases t with
  | nil => rfl
  | cons c cs => simp [readLiteral, Ne.symm (List.ne_of_not_mem_cons h)]

theorem readLiteral_printLiteral (v : Word) : readLiteral (printLiteral v) = some v.toInt := by
  have hlt : v.toInt.natAbs < 10 ^ 20 := by
    have h1 := v.le_toInt
    have h2 := v.toInt_lt
    omega
  unfold printLiteral
  split
  next hneg =>
    have habs : -(v.toInt.natAbs : Int) = v.toInt := by omega
    rw [readLiteral, if_pos rfl, readNat_decimal hlt]
    exact congrArg some habs
  next hpos =>
    have hminus : '-' ∉ decimal 20 v.toInt.natAbs := fun hm => absurd (mem_decimal hm) (by decide)
    rw [readLiteral_of_noMinus hminus, readNat_decimal hlt]
    exact congrArg some (Int.natAbs_of_nonneg (by omega))

/-- A printed literal consists of digits and the minus sign: of characters from `-` to `9`. -/
theorem mem_printLiteral {v : Word} {c : Char} (h : c ∈ printLiteral v) : 45 ≤ c.toNat ∧ c.toNat ≤ 57 := by
  unfold printLiteral at h
  split at h
  · obtain rfl | hc := List.mem_cons.1 h
    · decide
    · have := mem_decimal hc
      omega
  · have := mem_decimal h
    omega

/-! ## Operands (R55) -/

/-- A token without a lowercase letter is read as a literal (R55). -/
theorem readOperand_of_noLetter {t : Token} (h : ∀ c ∈ t, c.toNat < 97) : readOperand t = (readLiteral t).map .lit := by
  match t with
  | [] => rfl
  | [c] =>
    have hc : ¬(97 ≤ c.toNat ∧ c.toNat ≤ 122) := by
      have := h c (List.mem_singleton.2 rfl)
      omega
    rw [readOperand, if_neg hc]
  | _ :: _ :: _ => rfl

theorem readOperand_registerLetter (r : RegIdx) : readOperand [registerLetter r] = some (.reg r.val) := by
  revert r
  decide

theorem noSpace_registerLetter (r : RegIdx) : ' ' ∉ [registerLetter r] := by
  revert r
  decide

theorem readOperand_printOperand (x : Operand) : readOperand (printOperand x) = some x.toRaw := by
  cases x with
  | reg r => exact readOperand_registerLetter r
  | lit v =>
    have h : ∀ c ∈ printLiteral v, c.toNat < 97 := fun c hc => by
      have := mem_printLiteral hc
      omega
    rw [printOperand, readOperand_of_noLetter h, readLiteral_printLiteral]
    rfl

theorem noSpace_printOperand (x : Operand) : ' ' ∉ printOperand x := by
  cases x with
  | reg r => exact noSpace_registerLetter r
  | lit v => exact fun h => absurd (mem_printLiteral h) (by decide)

/-! ## Instructions (R57, R58) -/

theorem rawInstr_check_toRaw (i : Instr) : i.toRaw.check = .ok i := by
  cases i with
  | snd x => exact (Laws.SourceForm.snd x).2
  | set r x => exact (Laws.SourceForm.set r x).2
  | add r x => exact (Laws.SourceForm.add r x).2
  | mul r x => exact (Laws.SourceForm.mul r x).2
  | mod r x => exact (Laws.SourceForm.mod r x).2
  | rcv r => exact (Laws.SourceForm.rcv r).2
  | jgz x y => exact (Laws.SourceForm.jgz x y).2

/-- The canonical text of an instruction is read as its unchecked form. -/
theorem readLine_printInstr (i : Instr) : readLine (printInstr i) = i.toRaw.check := by
  cases i with
  | snd x => rw [printInstr, readLine_printOne _ (noSpace_printOperand x), readOperands, readOperand_printOperand]; rfl
  | rcv r => rw [printInstr, readLine_printOne _ (noSpace_registerLetter r), readOperands, readOperand_registerLetter]; rfl
  | set r x | add r x | mul r x | mod r x =>
    rw [printInstr, readLine_printTwo _ (noSpace_registerLetter r) (noSpace_printOperand x), readOperands,
      readOperand_registerLetter, readOperand_printOperand]
    rfl
  | jgz x y =>
    rw [printInstr, readLine_printTwo _ (noSpace_printOperand x) (noSpace_printOperand y), readOperands,
      readOperand_printOperand, readOperand_printOperand]
    rfl

/-- Settles O8: the canonical text is read as the unchecked form of the instruction, and checking that gives it back. -/
theorem canonicalTextReadsBack : Obligations.CanonicalTextReadsBack :=
  fun i => (readLine_printInstr i).trans (rawInstr_check_toRaw i)

end Sys2Proof.Machine

/-! # The step of a unit and of the machine (R65 to R72) -/

namespace Sys2Proof.Machine

/-! ## The validation step (R70) -/

theorem programValid_iff {m : Memory} : programValid m = true ↔ ∀ w ∈ m, ∃ i, decode w = .ok i := by
  simp only [programValid, List.all_eq_true, wordOk_iff]

/-- The word found is the lowest one that does not decode. -/
theorem firstInvalid_of_lowest {m : Memory} {a : Nat} {w : InstrWord} {f : DecodeFault} (k : Nat) (hw : m[a]? = some w)
    (hf : decode w = .error f) (hlow : ∀ b v, b < a → m[b]? = some v → ∃ i, decode v = .ok i) :
    firstInvalid m k = some (k + a, f) := by
  induction m generalizing a k with
  | nil => simp at hw
  | cons v vs ih =>
    cases a with
    | zero =>
      obtain rfl : v = w := by simpa using hw
      simp [firstInvalid, hf]
    | succ a =>
      obtain ⟨i, hi⟩ := hlow 0 v (by omega) rfl
      have hrest := ih (k + 1) hw fun b u hb hu => hlow (b + 1) u (by omega) hu
      simp only [firstInvalid, hi, hrest]
      congr 2
      omega

/-- Settles O42: the validation step by `firstInvalid_of_lowest` and `validationStep_valid`. -/
theorem validationPrecedesExecution : Obligations.ValidationPrecedesExecution := by
  intro s hp
  refine ⟨validationStep s, step_check hp, fun a w f hw hf hlow => ?_, fun hvalid => ?_⟩
  · have hfirst := firstInvalid_of_lowest 0 hw hf hlow
    simp [validationStep, hfirst, State.raise]
  · exact validationStep_valid (programValid_iff.2 hvalid)

/-! ## When a step is enabled (R65) -/

theorem mem_prog_of_fetch {s : State} {a : Word} {w : InstrWord} (h : s.fetch a = some w) : w ∈ s.prog := by
  unfold State.fetch at h
  split at h
  · exact List.mem_of_getElem? h
  · cases h

/-- In a valid program the step of a unit always has a next state (R67). -/
theorem exists_unitStep_of_valid {s : State} (h : programValid s.prog = true) : ∃ o t, unitStep s = .next (o, t) := by
  by_contra hstop
  push Not at hstop
  obtain ⟨w, f, hw, hf⟩ := unitStep_stops hstop
  obtain ⟨i, hi⟩ := programValid_iff.1 h w (mem_prog_of_fetch hw)
  simp [hf] at hi

theorem exists_step_of_run {s : State} (hp : s.phase = .run) (hv : programValid s.prog = true) : ∃ t, step s = .next t := by
  obtain ⟨o, u, hu⟩ := exists_unitStep_of_valid hv
  cases hm : s.mode with
  | cooperative => exact ⟨_, step_cooperative hp hm hu⟩
  | standalone =>
    by_cases hh : s.u0.ustate = .halted
    · exact ⟨_, step_standalone_done hp hm hh⟩
    · exact ⟨_, step_standalone hp hm hh hu⟩

/-- Settles O43: in CHECK the validation step, in RUN a unit's step of a valid program. -/
theorem stepEnabledExactlyBeforeTheEnd : Obligations.StepEnabledExactlyBeforeTheEnd := by
  intro s hs
  refine ⟨⟨fun ⟨t, ht⟩ => phase_of_step ht, ?_⟩, fun hp => ?_, fun hp => ?_⟩
  · rintro (hp | hp)
    · exact ⟨_, step_check hp⟩
    · exact exists_step_of_run hp (hs.progValid (.inl hp))
  · simp [step, machineStep, hp]
  · simp [step, machineStep, hp]

/-! ## The step of a unit, by what the state before it shows (R66) -/

/-- A pending instruction is what the unit's step executes. -/
theorem unitStep_of_pending {s t : State} {i : Instr} (hi : s.pending = some i) (he : exec i s = .next t) :
    unitStep s = .next (outcomeAfter t, t) := by
  obtain ⟨-, hh, hat⟩ := instrAt_eq_of_pending hi
  exact unitStep_executes hh hat he

/-- The five outcomes of a unit's step from `s` to `t`, each with what the state before it shows. -/
inductive UnitCase (s t : State) : UnitOutcome → Prop where
  /-- The unit was halted (R72). -/
  | idle (hh : s.cur.ustate = .halted) : UnitCase s t .idle
  /-- The pc was outside the program (R66). -/
  | halt (hh : s.cur.ustate ≠ .halted) (hb : s.inProgram s.cur.pc = false) : UnitCase s t .halt
  /-- A cooperative `rcv` found its channel empty (R95). -/
  | suspend (r : RegIdx) (hm : s.mode = .cooperative) (hq : s.chan s.executing.other = []) (hi : s.pending = some (.rcv r)) :
      UnitCase s t .suspend
  /-- A `mod` had a zero divisor (R79). -/
  | fault (r : RegIdx) (x : Operand) (hi : s.pending = some (.mod r x)) (hz : s.resolve x = 0) : UnitCase s t .fault
  /-- Any other instruction was executed. -/
  | executed (i : Instr) (hi : s.pending = some i) (he : exec i s = .next t) (ho : outcomeAfter t = .executed) :
      UnitCase s t .executed

theorem unitStep_unitCase {s t : State} {o : UnitOutcome} (hp : s.phase = .run) (h : unitStep s = .next (o, t)) :
    UnitCase s t o := by
  obtain ⟨hh, rfl, -⟩ | ⟨hh, hf, rfl, -⟩ | ⟨hh, i, hat, he, rfl⟩ := unitStep_cases h
  · exact .idle hh
  · exact .halt hh (fetch_eq_none_iff.1 hf)
  · have hi := pending_eq_some hp hh hat
    obtain ⟨ho, -⟩ | ⟨ho, -, hm, ⟨r, rfl⟩, hq, -⟩ | ⟨ho, -, r, x, rfl, hz⟩ := outcomeAfter_of_case hp (exec_case_of_next he)
    · rw [ho]; exact .executed i hi he ho
    · rw [ho]; exact .suspend r hm hq hi
    · rw [ho]; exact .fault r x hi hz

section UnitStepOutcome
variable {s t : State} {o : UnitOutcome}

theorem unitStep_idle_iff (hp : s.phase = .run) (h : unitStep s = .next (o, t)) : o = .idle ↔ s.cur.ustate = .halted := by
  constructor
  · rintro rfl
    cases unitStep_unitCase hp h with
    | idle hh => exact hh
  · intro hh
    rw [unitStep_halted hh] at h
    cases h
    rfl

theorem unitStep_halt_iff (hp : s.phase = .run) (h : unitStep s = .next (o, t)) :
    o = .halt ↔ s.cur.ustate ≠ .halted ∧ s.inProgram s.cur.pc = false := by
  constructor
  · rintro rfl
    cases unitStep_unitCase hp h with
    | halt hh hb => exact ⟨hh, hb⟩
  · rintro ⟨hh, hb⟩
    rw [unitStep_outside hh (fetch_eq_none_iff.2 hb)] at h
    cases h
    rfl

theorem unitStep_suspend_iff (hp : s.phase = .run) (h : unitStep s = .next (o, t)) :
    o = .suspend ↔ s.mode = .cooperative ∧ s.chan s.executing.other = [] ∧ ∃ r, s.pending = some (.rcv r) := by
  constructor
  · rintro rfl
    cases unitStep_unitCase hp h with
    | suspend r hm hq hi => exact ⟨hm, hq, r, hi⟩
  · rintro ⟨hm, hq, r, hi⟩
    rw [unitStep_of_pending hi (exec_rcv_waits hm r hq)] at h
    cases h
    simp [outcomeAfter, hp]

theorem unitStep_fault_iff (hp : s.phase = .run) (h : unitStep s = .next (o, t)) :
    o = .fault ↔ ∃ r x, s.pending = some (.mod r x) ∧ s.resolve x = 0 := by
  constructor
  · rintro rfl
    cases unitStep_unitCase hp h with
    | fault r x hi hz => exact ⟨r, x, hi, hz⟩
  · rintro ⟨r, x, hi, hz⟩
    rw [unitStep_of_pending hi (exec_mod_zero r hz)] at h
    cases h
    simp [outcomeAfter]

end UnitStepOutcome

/-- An executed instruction leaves its unit RUNNING, or HALTED where a standalone `rcv` triggered (R66, R94). -/
theorem ustate_of_executed {s t : State} {i : Instr} (hp : s.phase = .run) (he : exec i s = .next t)
    (ho : outcomeAfter t = .executed) :
    (t.unit s.executing).ustate = .running ∨
    (s.mode = .standalone ∧ (t.unit s.executing).ustate = .halted ∧ ∃ r, i = .rcv r ∧ s.readReg r ≠ 0) := by
  cases exec_case_of_next he with
  | quiet _ u _ hr _ => exact .inl (by simpa using hr)
  | remember | send | receive => exact .inl (by simp [State.unit_setCur_eq])
  | recover r hm =>
    refine .inr ⟨hm, by simp, r, rfl, fun hz => ?_⟩
    rw [exec_rcv_zero hm hz] at he
    simpa using congrArg (fun u : State => u.cur.ustate) (Host.Outcome.next.inj he)
  | wait | modZero => simp [outcomeAfter, hp] at ho

/-- Settles O54: the outcomes by the cases of `UnitCase`, the unit's state after by `ustate_of_executed`. -/
theorem unitStepOutcomes : Obligations.UnitStepOutcomes := by
  intro s t o hp h
  refine ⟨unitStep_idle_iff hp h, unitStep_halt_iff hp h, unitStep_suspend_iff hp h, unitStep_fault_iff hp h, ?_⟩
  rintro rfl
  cases unitStep_unitCase hp h with
  | executed i hi he ho => simpa [hi] using ⟨he, ustate_of_executed hp he ho⟩

/-- Settles O34: the step is one write of the executing unit's state. -/
theorem unitHaltsOutsideProgram : Obligations.UnitHaltsOutsideProgram := by
  intro s hh hb
  have hout : s.inProgram s.cur.pc = false := Bool.eq_false_iff.2 (mt State.inProgram_iff.1 hb)
  exact ⟨_, unitStep_outside hh (fetch_eq_none_iff.2 hout), unit_executing_setCur _ _, sameChannels_setCur _ _,
    sameOutside_setCur _ _⟩

/-- Settles O40: `step_of_halted` and `unitStep_halted`. -/
theorem haltedUnitStaysHalted : Obligations.HaltedUnitStaysHalted :=
  ⟨fun _ _ _ h hh => (step_of_halted hh h).1, fun _ => unitStep_halted⟩

/-! ## What the step of a unit leaves for the machine's step (R71, R102) -/

/-- A unit's step in phase RUN leaves the other unit and the scheduler's fields alone. -/
theorem unitStep_frame {s u : State} {o : UnitOutcome} (hp : s.phase = .run) (h : unitStep s = .next (o, u)) :
    u.unit s.executing.other = s.unit s.executing.other ∧
    u.active = s.active ∧ u.turnProgress = s.turnProgress ∧ u.prevZero = s.prevZero := by
  obtain ⟨-, hout⟩ | ⟨-, rfl⟩ | ⟨-, -, st, rfl⟩ := unitStep_outcome hp h
  · exact ⟨hout.otherUnit, hout.active, hout.turnProgress, hout.prevZero⟩
  · simp
  · simp [State.other_setCur]

/-- A unit's step leaves the machine in phase RUN, or takes the fault ModByZero at its pc (R67). -/
theorem unitStep_phase {s u : State} {o : UnitOutcome} (hp : s.phase = .run) (h : unitStep s = .next (o, u)) :
    u.phase = .run ∨ (o = .fault ∧ u = s.raise .modByZero s.cur.pc) := by
  obtain ⟨-, hout⟩ | hfault | ⟨-, -, st, rfl⟩ := unitStep_outcome hp h
  · exact .inl (hout.phase.trans hp)
  · exact .inr hfault
  · exact .inl (by simpa using hp)

/-- A unit's step that ends in phase FAULT took the fault ModByZero at its pc. -/
theorem unitStep_phase_fault {s u : State} {o : UnitOutcome} (hp : s.phase = .run) (h : unitStep s = .next (o, u))
    (hf : u.phase = .fault) : o = .fault ∧ u = s.raise .modByZero s.cur.pc :=
  (unitStep_phase hp h).resolve_left (by simp [hf])

/-- The scheduler's bookkeeping does not raise a fault (R102). -/
theorem phase_fault_of_afterUnitStep {o : UnitOutcome} {u : State} (h : (afterUnitStep o u).phase = .fault) :
    u.phase = .fault := by
  obtain ⟨-, hdone | ⟨hphase, -⟩⟩ := afterUnitStep_control o u
  · simp [h] at hdone
  · exact hphase.symm.trans h

/-- A step in phase RUN that ends in phase FAULT is a unit's step with the outcome Fault, in either mode (R67, R126). -/
theorem step_phase_fault {s t : State} (hp : s.phase = .run) (h : step s = .next t) (hf : t.phase = .fault) :
    unitStep s = .next (.fault, t) ∧ t = s.raise .modByZero s.cur.pc := by
  obtain ⟨hc, -⟩ | ⟨-, -, -, rfl⟩ | ⟨-, -, -, o, hu⟩ | ⟨-, -, o, u, hu, rfl⟩ := step_cases h
  · simp [hp] at hc
  · simp at hf
  · obtain ⟨rfl, ht⟩ := unitStep_phase_fault hp hu hf
    exact ⟨hu, ht⟩
  · obtain ⟨rfl, hraise⟩ := unitStep_phase_fault hp hu (phase_fault_of_afterUnitStep hf)
    exact ⟨hu, hraise⟩

/-- Settles O46: the step's fault is the unit's, whose instruction `unitStep_fault_iff` gives. -/
theorem onlyModByZeroFaultsInRun : Obligations.OnlyModByZeroFaultsInRun := by
  intro s t hp h hf
  obtain ⟨hu, rfl⟩ := step_phase_fault hp h hf
  exact ⟨rfl, (unitStep_fault_iff hp hu).1 rfl⟩

/-- Settles O35: a halted unit 0 ends the run; any other standalone step is the unit's. -/
theorem standaloneStepIsUnitZeros : Obligations.StandaloneStepIsUnitZeros := by
  intro s t hp hm h
  have hchan : SameChannels s t := (channelEndsAreOwned s t h).2.2 hm
  by_cases hh : s.u0.ustate = .halted
  · rw [step_standalone_done hp hm hh] at h
    cases h
    exact ⟨rfl, hchan, rfl, rfl, rfl, fun _ => ⟨rfl, rfl, rfl, rfl⟩, fun hn => absurd hh hn⟩
  · obtain ⟨hc, -⟩ | ⟨-, -, hd, -⟩ | ⟨-, -, -, o, hu⟩ | ⟨-, hc, -⟩ := step_cases h
    · simp [hp] at hc
    · exact absurd hd hh
    · obtain ⟨hother, hactive, hprogress, hzero⟩ := unitStep_frame hp hu
      rw [executing_standalone hm] at hother
      refine ⟨hother, hchan, hactive, hprogress, hzero, fun hd => absurd hd hh, fun _ => ⟨o, hu, ?_, fun hf => ?_⟩⟩
      · obtain hrun | ⟨-, rfl⟩ := unitStep_phase hp hu
        · simp [hrun]
        · simp
      · obtain ⟨-, rfl⟩ := unitStep_phase_fault hp hu hf
        simp [cur_standalone hm]
    · simp [hm] at hc

/-- Settles O33: `unitStep_executes` under the step of each mode. -/
theorem stepRunsDecodedInstruction : Obligations.StepRunsDecodedInstruction := by
  intro s w i hp hh hf hd
  obtain ⟨t, he, -⟩ := exec_cases i s
  have hu := unitStep_executes hh (instrAt_eq_some.2 ⟨w, hf, hd⟩) he
  refine ⟨fun hm => ?_, fun hm => ⟨t, he, step_cooperative hp hm hu⟩⟩
  rw [he]
  exact step_standalone hp hm (cur_standalone hm ▸ hh) hu

end Sys2Proof.Machine

/-! # Data movement and arithmetic (R75 to R84) -/

namespace Sys2Proof

/-- The opcode field of an encoding is its opcode's number (R49, R53). -/
theorem opc_encode (i : Instr) : (encode i).opc = i.opcode.number := by
  cases i <;> exact mkWord_opc ..

end Sys2Proof

namespace Sys2Proof.Machine

/-! ## Wrapping arithmetic (R81) -/

theorem wrap64_neg_toInt (a : Word) : wrap64 (-a.toInt) = -a := by
  simp only [wrap64, BitVec.ofInt_neg, BitVec.ofInt_toInt]

/-- Settles O15: both operations are those of bit vectors, whose laws the library has. -/
theorem wrappingArithmeticLaws : Obligations.WrappingArithmeticLaws := by
  intro a b c
  simp only [addWrap_eq, mulWrap_eq, wrap64_neg_toInt]
  exact ⟨BitVec.add_comm a b, BitVec.add_assoc a b c, BitVec.mul_comm a b, BitVec.mul_add, BitVec.add_zero a,
    BitVec.mul_one a, BitVec.mul_zero, mul_neg_one a⟩

/-! ## The truncating remainder (R79, R82) -/

section Remainder
variable {a b : Word}

theorem trem_toInt_eq_sub (h : b ≠ 0) : (trem a b).toInt = a.toInt - b.toInt * a.toInt.tdiv b.toInt := by
  rw [trem_toInt h, Int.tmod_def]

theorem natAbs_trem_lt (h : b ≠ 0) : (trem a b).toInt.natAbs < b.toInt.natAbs := by
  rw [trem_toInt h, Int.natAbs_tmod]
  exact Nat.mod_lt _ (Int.natAbs_pos.2 (toInt_ne_zero h))

/-- A divisor of the dividend leaves no remainder. -/
theorem trem_eq_zero_of_dvd (h : b.toInt ∣ a.toInt) : trem a b = 0 := by
  rw [trem, tremInt_eq, Int.tmod_eq_zero_of_dvd h]
  rfl

/-- The remainder is zero or has the sign of the dividend. -/
theorem trem_zero_or_pos_iff (h : b ≠ 0) : (trem a b).toInt = 0 ∨ (0 < (trem a b).toInt ↔ 0 < a.toInt) := by
  by_cases hd : b.toInt ∣ a.toInt
  · exact .inl (congrArg BitVec.toInt (trem_eq_zero_of_dvd hd))
  · right
    rw [← Int.sign_eq_one_iff_pos, ← Int.sign_eq_one_iff_pos, trem_toInt h, Int.sign_tmod, if_neg hd]

/-- The remainder does not see the divisor's sign; `INT64_MIN` is its own wrapped negation. -/
theorem trem_neg_divisor (h : b ≠ 0) : (trem a (-b)).toInt = (trem a b).toInt := by
  rw [trem_toInt (neg_ne_zero.2 h), trem_toInt h, BitVec.toInt_neg_eq_ite]
  split
  · rfl
  · exact Int.tmod_neg ..

theorem trem_neg_dividend (h : b ≠ 0) (ha : a ≠ BitVec.intMin 64) : (trem (-a) b).toInt = -(trem a b).toInt := by
  rw [trem_toInt h, trem_toInt h, BitVec.toInt_neg_of_ne_intMin ha, Int.neg_tmod]

end Remainder

/-- Settles O16: `trem_toInt_eq_sub`, and the remainder under a change of either sign. -/
theorem remainderLaw : Obligations.RemainderLaw := by
  intro a b hb
  rw [wrap64_neg_toInt, wrap64_neg_toInt]
  refine ⟨?_, trem_neg_divisor hb, fun ha => trem_neg_dividend hb ?_⟩
  · rw [trem_toInt_eq_sub hb, add_sub_cancel]
  · rintro rfl
    exact absurd ha (by decide)

/-! ## The answer of each instruction of the family -/

theorem exec_set (r : RegIdx) (x : Operand) (s : State) :
    exec (.set r x) s = .next (s.writeAndAdvance r (s.resolve x)) := rfl

theorem exec_add (r : RegIdx) (x : Operand) (s : State) :
    exec (.add r x) s = .next (s.writeAndAdvance r (addWrap (s.readReg r) (s.resolve x))) := rfl

theorem exec_mul (r : RegIdx) (x : Operand) (s : State) :
    exec (.mul r x) s = .next (s.writeAndAdvance r (mulWrap (s.readReg r) (s.resolve x))) := rfl

theorem exec_mod_ne_zero {s : State} (r : RegIdx) {x : Operand} (h : s.resolve x ≠ 0) :
    exec (.mod r x) s = .next (s.writeAndAdvance r (trem (s.readReg r) (s.resolve x))) := if_neg h

/-- A non-zero divisor of the register's value has `mod` write 0. -/
theorem exec_mod_of_dvd {s : State} {r : RegIdx} {x : Operand} (h : s.resolve x ≠ 0)
    (hd : (s.resolve x).toInt ∣ (s.readReg r).toInt) : exec (.mod r x) s = .next (s.writeAndAdvance r 0) := by
  rw [exec_mod_ne_zero r h, trem_eq_zero_of_dvd hd]

/-! ## What each instruction does: the obligations -/

/-- Settles O10: `set` ends in a write of the resolved operand. -/
theorem setCopiesOperand : Obligations.SetCopiesOperand := fun r x s =>
  ⟨opc_encode _, _, exec_set r x s, wroteRegister_writeAndAdvance ..⟩

/-- Settles O11: `add` ends in a write of the wrapped sum, whose value is `wrap64_toInt`'s. -/
theorem addWrapsSum : Obligations.AddWrapsSum := fun r x s =>
  ⟨opc_encode _, _, _, exec_add r x s, wroteRegister_writeAndAdvance .., wrap64_toInt _⟩

/-- Settles O12: `mul` ends in a write of the wrapped product, whose value is `wrap64_toInt`'s. -/
theorem mulWrapsProduct : Obligations.MulWrapsProduct := fun r x s =>
  ⟨opc_encode _, _, _, exec_mul r x s, wroteRegister_writeAndAdvance .., wrap64_toInt _⟩

/-- Settles O13: a non-zero divisor by the facts about `trem`, a zero one by the raised state. -/
theorem modTruncatesOrFaults : Obligations.ModTruncatesOrFaults := by
  refine fun r x s => ⟨opc_encode _, fun h => ?_, fun h => ?_⟩
  · exact ⟨_, _, exec_mod_ne_zero r h, wroteRegister_writeAndAdvance .., trem_toInt_eq_sub h, natAbs_trem_lt h,
      trem_zero_or_pos_iff h⟩
  · exact ⟨_, exec_mod_zero r h, rfl, State.raise_unit s _ _, State.raise_chan s _ _, rfl, rfl, rfl, rfl⟩

/-- Settles O14: the register is read before it is written; a value divides itself. -/
theorem sameRegisterUsesOldValue : Obligations.SameRegisterUsesOldValue := by
  refine fun a s => ⟨?_, ?_, ?_, fun h => ?_, fun h => ?_⟩
  · exact ⟨_, exec_set .., wroteRegister_writeAndAdvance ..⟩
  · rw [two_mul]
    exact ⟨_, exec_add .., wroteRegister_writeAndAdvance ..⟩
  · exact ⟨_, exec_mul .., wroteRegister_writeAndAdvance ..⟩
  · exact ⟨_, exec_mod_of_dvd h dvd_rfl, wroteRegister_writeAndAdvance ..⟩
  · exact ⟨_, exec_mod_zero a h, rfl, rfl⟩

/-- Settles O17: -1 divides `INT64_MIN`, so `mod` writes 0. -/
theorem minModMinusOneIsZero : Obligations.MinModMinusOneIsZero := by
  intro r x s _ hx
  have hne : s.resolve x ≠ 0 := fun h => by simp [h] at hx
  have hdvd : (s.resolve x).toInt ∣ (s.readReg r).toInt := hx ▸ Int.neg_dvd.2 (one_dvd _)
  have hwrote := wroteRegister_writeAndAdvance s r 0
  exact ⟨_, exec_mod_of_dvd hne hdvd, hwrote, hwrote.outside.faultCode⟩

/-- Settles O30: in either mode the instruction writes the same executing unit, or raises ModByZero. -/
theorem silentInstructionsIgnoreMode : Obligations.SilentInstructionsIgnoreMode := by
  intro i s c hi hcur hs hc
  obtain ⟨u, -, hes, hec⟩ | ⟨hes, hec⟩ := exec_silent hi hcur
  · exact ⟨_, _, hes, hec, by simp, by simp [hs, hc], by simp [outcomeAfter, hs, hc]⟩
  · refine ⟨_, _, hes, hec, ?_, rfl, rfl⟩
    rw [State.raise_unit, State.raise_unit]
    exact hcur

end Sys2Proof.Machine

/-! # Control transfer (R85 to R89) -/

namespace Sys2Proof.Machine

/-! ## The end of a jump -/

/-- The end of an executed instruction writes the pc, sets the unit RUNNING, and does nothing else (R66, R68). -/
theorem retire_frame (s : State) (p : Word) :
    ((s.retire p).unit s.executing).pc = p ∧ ((s.retire p).unit s.executing).ustate = .running ∧
    SameRegs s.cur ((s.retire p).unit s.executing) ∧ SameModeRegs s.cur ((s.retire p).unit s.executing) ∧
    SameChannels s (s.retire p) ∧ SameOutside s (s.retire p) := by
  rw [retire_eq, unit_executing_setCur]
  exact ⟨rfl, rfl, fun _ => rfl, ⟨rfl, rfl, rfl, rfl⟩, sameChannels_setCur _ _, sameOutside_setCur _ _⟩

/-- A RUNNING unit that retires to its own pc is as before. -/
theorem retire_pc_of_running {s : State} (h : s.cur.ustate = .running) : s.retire s.cur.pc = s := by
  rw [retire_eq, ← h]
  exact State.setUnit_unit s s.executing

/-! ## What `jgz` does: the obligation -/

theorem exec_jgz_taken {s : State} {x : Operand} (y : Operand) (h : 0 < (s.resolve x).toInt) :
    exec (.jgz x y) s = .next (s.retire (s.cur.pc + s.resolve y)) := by
  rw [← addWrap_eq]
  exact if_pos (decide_eq_true h)

theorem exec_jgz_not_taken {s : State} {x : Operand} (y : Operand) (h : (s.resolve x).toInt ≤ 0) :
    exec (.jgz x y) s = .next (s.retire (s.cur.pc + 1)) := by
  rw [← wrap64_succ]
  exact if_neg (by simpa [isPositive] using h)

/-- Settles O18: on either side of the test `jgz` retires, to the target or to the next pc. -/
theorem jgzJumpsIfPositive : Obligations.JgzJumpsIfPositive := by
  refine fun x y s => ⟨opc_encode _, ?_⟩
  by_cases h : 0 < (s.resolve x).toInt
  · obtain ⟨hpc, hframe⟩ := retire_frame s (s.cur.pc + s.resolve y)
    exact ⟨_, exec_jgz_taken y h, fun _ => hpc, fun hn => absurd h hn.not_gt, hframe⟩
  · obtain ⟨hpc, hframe⟩ := retire_frame s (s.cur.pc + 1)
    exact ⟨_, exec_jgz_not_taken y (not_lt.1 h), fun hp => absurd hp h, fun _ => hpc, hframe⟩

/-! ## The wrapped target (R87): the obligation -/

/-- An integer above the int64s by less than `2^64` wraps once. -/
theorem wrap64_toInt_of_overflow {v : Int} (h1 : 2 ^ 63 ≤ v) (h2 : v < 2 ^ 63 + 2 ^ 64) : (wrap64 v).toInt = v - 2 ^ 64 := by
  rw [wrap64_toInt]
  omega

/-- Settles O19: the sum is an int64, which does not wrap, or at least `2^63`, which wraps to a negative index. -/
theorem wrappedTargetAgrees : Obligations.WrappedTargetAgrees := by
  intro s pc y hw hpc
  have hlen := Memory.wf_iff.1 hw
  obtain ⟨hpc0, hpcL⟩ := State.inProgram_iff.1 hpc
  have hy0 := y.le_toInt
  have hy1 := y.toInt_lt
  have hsucc : (wrap64 (pc.toInt + 1)).toInt = pc.toInt + 1 := wrap64_toInt_of_range (by omega) (by omega)
  simp only [State.inProgram_iff, State.progLength]
  obtain hlt | hge := lt_or_ge (pc.toInt + y.toInt) (2 ^ 63)
  · have hwrap : (wrap64 (pc.toInt + y.toInt)).toInt = pc.toInt + y.toInt := wrap64_toInt_of_range (by omega) hlt
    rw [hwrap]
    exact ⟨by omega, fun _ => rfl, fun hge => absurd hlt hge.not_gt, .rfl, fun _ => rfl, hsucc⟩
  · have hwrap : (wrap64 (pc.toInt + y.toInt)).toInt = pc.toInt + y.toInt - 2 ^ 64 :=
      wrap64_toInt_of_overflow hge (by omega)
    have hneg : pc.toInt + y.toInt - 2 ^ 64 ≤ -3 := by omega
    rw [hwrap]
    exact ⟨by omega, fun hle => absurd hle (by omega), fun _ => ⟨rfl, by omega, hneg⟩,
      iff_of_false (by omega) (by omega), fun hin => absurd hin.1 (by omega), hsucc⟩

/-! ## The jump to itself (R73, R112): the obligation -/

/-- A step that leads back to its own state does so any number of times. -/
theorem runSteps_of_step_self {s : State} (h : step s = .next s) (n : Nat) : runSteps n s = .next s := by
  induction n with
  | zero => rfl
  | succ n ih => rw [runSteps_succ_of_step n h, ih]

/-- A RUNNING unit's instruction that leaves the state as it is makes a step that does, where the scheduler has already
remembered progress in this turn. -/
theorem step_self_of_exec_self {s : State} {i : Instr} (hi : s.pending = some i) (he : exec i s = .next s)
    (hr : s.cur.ustate = .running) (hp : s.mode = .cooperative → s.turnProgress = true) : step s = .next s := by
  obtain ⟨hrun, hh, -⟩ := instrAt_eq_of_pending hi
  have ho : outcomeAfter s = .executed := by simp [outcomeAfter, hrun, hr]
  have hu : unitStep s = .next (.executed, s) := ho ▸ unitStep_of_pending hi he
  cases hm : s.mode with
  | standalone => exact step_standalone hrun hm (cur_standalone hm ▸ hh) hu
  | cooperative =>
    have hback : afterUnitStep .executed s = s := by rw [afterUnitStep, ← hp hm]
    rw [step_cooperative hrun hm hu, hback]

/-- Settles O20: one step leads back to the state, so any number does. -/
theorem jumpToItselfNeverEnds : Obligations.JumpToItselfNeverEnds := by
  intro s x y n hi hx hy hr hp
  have he : exec (.jgz x y) s = .next s := by
    rw [exec_jgz_taken y hx, hy, add_zero, retire_pc_of_running hr]
  exact runSteps_of_step_self (step_self_of_exec_self hi he hr hp) n

end Sys2Proof.Machine

/-! # Communication (R90 to R96) -/

namespace Sys2Proof.Machine

/-! ## A write of a channel and of the executing unit -/

theorem unit_setChan_setCur (s : State) (k : UnitId) (q : List Word) (u : ExecUnit) :
    ((s.setChan k q).setCur u).unit s.executing = u := by
  simp [State.setCur]

/-- Of two writes of the executing unit, with a write of a channel between them, the later one stands. -/
theorem setCur_setChan_setCur (s : State) (k : UnitId) (q : List Word) (u v : ExecUnit) :
    ((s.setCur u).setChan k q).setCur v = (s.setChan k q).setCur v := by
  simp only [State.setCur, State.executing_setChan, State.executing_setUnit]
  cases s.executing <;> cases k <;> rfl

/-! ## `snd` and `rcv` in each mode: the obligations -/

/-- Settles O21: the answer is one write of the executing unit, of `lsv`, pc and unit state. -/
theorem standaloneSndRemembers : Obligations.StandaloneSndRemembers := by
  intro x s hm
  refine ⟨_, exec_snd_standalone hm x, ?_⟩
  rw [unit_executing_setCur]
  exact ⟨rfl, rfl, rfl, fun _ => rfl, rfl, rfl, rfl, sameChannels_setCur _ _, sameOutside_setCur _ _⟩

/-- Settles O22: the answer is one write of the own channel and one of the executing unit, of `sent_count`, pc and unit state. -/
theorem cooperativeSndPushes : Obligations.CooperativeSndPushes := by
  intro x s hm
  refine ⟨_, exec_snd_cooperative hm x, by simp, by simp, ?_⟩
  rw [unit_setChan_setCur]
  exact ⟨wrap64_succ _, rfl, rfl, fun _ => rfl, rfl, rfl, rfl, sameOutside_setChan_setCur _ _ _ _⟩

/-- A standalone unit 0 that is halted with its latch set ends the run at the next step, with `frv` as a valid result (R71). -/
theorem step_ends_of_latched {s : State} (hm : s.mode = .standalone) (hp : s.phase = .run)
    (hh : (s.unit s.executing).ustate = .halted) (hl : (s.unit s.executing).frvLatched = true) :
    ∃ u, step s = .next u ∧ u.phase = .done ∧ u.result = (s.unit s.executing).frv ∧ u.resultValid = true := by
  rw [executing_standalone hm] at hh hl ⊢
  exact ⟨_, step_standalone_done hp hm hh, rfl, rfl, hl⟩

/-- Settles O23: on either side of the test the answer is one write of the executing unit; where the register is not 0, it halts
the unit with its latch set. -/
theorem standaloneRcvRecovers : Obligations.StandaloneRcvRecovers := by
  intro r s hm
  by_cases hz : s.readReg r = 0
  · refine ⟨_, exec_rcv_zero hm hz, fun hn => absurd hz hn, ?_⟩
    rw [unit_executing_setCur]
    exact ⟨fun _ => ⟨rfl, rfl, rfl, rfl⟩, fun _ => rfl, rfl, rfl, sameChannels_setCur _ _, sameOutside_setCur _ _⟩
  · refine ⟨_, exec_rcv_triggers hm hz, fun _ => ?_, fun h => absurd h hz, ?_⟩
    · refine ⟨by simp, by simp, by simp, by simp, fun hp => ?_⟩
      rw [← State.executing_setCur s]
      exact step_ends_of_latched (by simpa) (by simpa) (by simp) (by simp)
    · rw [unit_executing_setCur]
      exact ⟨fun _ => rfl, rfl, rfl, sameChannels_setCur _ _, sameOutside_setCur _ _⟩

/-- Settles O24: where the inbound channel holds a value, the answer is a write of that channel and of the executing unit; where it
is empty, one of the executing unit's state. -/
theorem cooperativeRcvReceivesOrSuspends : Obligations.CooperativeRcvReceivesOrSuspends := by
  intro r s hm
  cases hq : s.chan s.executing.other with
  | nil =>
    refine ⟨_, exec_rcv_waits hm r hq, by simp, ?_⟩
    rw [unit_executing_setCur]
    exact ⟨fun _ => ⟨rfl, by simpa⟩, by simp, ⟨rfl, rfl, rfl, rfl⟩, sameOutside_setCur _ _⟩
  | cons v rest =>
    refine ⟨_, exec_rcv_receives hm r hq, ?_⟩
    rw [unit_setChan_setCur]
    refine ⟨?_, by simp, by simp [State.inbound], ⟨rfl, rfl, rfl, rfl⟩, sameOutside_setChan_setCur _ _ _ _⟩
    rintro v' rest' hcons
    obtain ⟨rfl, rfl⟩ := List.cons.inj hcons
    exact ⟨ExecUnit.reg_setReg_self s.cur r v, fun i hi => ExecUnit.reg_setReg_ne s.cur v hi, by simp [State.inbound], rfl, rfl⟩

/-! ## The retry of a suspended `rcv` (R96): the obligation -/

/-- A cooperative `rcv` does not read its unit's state: on either branch it overwrites it. -/
theorem exec_rcv_setUstate {s : State} (hm : s.mode = .cooperative) (r : RegIdx) (st : UState) :
    exec (.rcv r) (s.setUstate st) = exec (.rcv r) s := by
  have hm' : (s.setUstate st).mode = .cooperative := by simpa [setUstate_eq]
  have hchan : (s.setUstate st).chan (s.setUstate st).inbound = s.chan s.inbound := by simp [setUstate_eq, State.inbound]
  cases hq : s.chan s.inbound with
  | nil =>
    rw [exec_rcv_waits hm r hq, exec_rcv_waits hm' r (hchan.trans hq)]
    simp [setUstate_eq]
  | cons v rest =>
    rw [exec_rcv_receives hm r hq, exec_rcv_receives hm' r (hchan.trans hq)]
    simp [setUstate_eq, setCur_setChan_setCur, State.inbound, ExecUnit.setReg]

/-- Settles O25: in either state the unit executes its `rcv`, whose answer is that of `exec_rcv_setUstate`. -/
theorem suspendedRetriesAsRunning : Obligations.SuspendedRetriesAsRunning := by
  intro s r hm hi
  obtain ⟨t, he, -⟩ := exec_cases (.rcv r) s
  have hstep (st : UState) (hst : st ≠ .halted) : unitStep (s.setUstate st) = .next (outcomeAfter t, t) := by
    have hi' : (s.setUstate st).instrAt (s.setUstate st).cur.pc = some (.rcv r) := by
      rw [instrAt_congr (s := s) (by simp [setUstate_eq])]
      simpa [setUstate_eq] using hi
    exact unitStep_executes (by simpa [setUstate_eq]) hi' ((exec_rcv_setUstate hm r st).trans he)
  rw [hstep .suspended (by decide), hstep .running (by decide)]

end Sys2Proof.Machine

/-! # The deadlock detector (R104 to R110) -/

namespace Sys2Proof.Machine

/-! ## It stops only dead runs: the obligation -/

/-- The scheduler's bookkeeping ends a run in one way only (R106). -/
theorem afterUnitStep_eq_finish {o : UnitOutcome} {u : State} (hu : u.phase ≠ .done) (h : (afterUnitStep o u).phase = .done) :
    afterUnitStep o u = u.finish u.u1.sentCount true := by
  have hend (hd : (endTurn u).phase = .done) : endTurn u = u.finish u.u1.sentCount true := by
    by_cases hover : u.turnProgress = false ∧ u.prevZero = true
    · exact endTurn_over hover
    · rw [endTurn_passes hover] at hd
      exact absurd hd hu
  cases o with
  | executed | fault => exact absurd h hu
  | suspend | halt | idle => exact hend h

/-- A cooperative step that ends the run has unit 1's `sent_count` as valid result (R22, R106). -/
theorem step_done_result {s t : State} (hp : s.phase = .run) (hm : s.mode = .cooperative) (h : step s = .next t)
    (hd : t.phase = .done) : t.resultValid = true ∧ t.result = t.u1.sentCount := by
  obtain ⟨hc, -⟩ | ⟨-, hm', -⟩ | ⟨-, hm', -⟩ | ⟨-, -, o, u, hu, rfl⟩ := step_cases h
  · simp [hp] at hc
  · simp [hm] at hm'
  · simp [hm] at hm'
  · have hrun : u.phase ≠ .done := by
      obtain hr | ⟨-, rfl⟩ := unitStep_phase hp hu
      · simp [hr]
      · simp
    rw [afterUnitStep_eq_finish hrun hd]
    exact ⟨rfl, rfl⟩

/-- Settles O52: the invariant after the step has both units blocked. -/
theorem detectorStopsOnlyDeadRuns : Obligations.DetectorStopsOnlyDeadRuns := by
  intro s t hs hm hp h hd
  have hmt : t.mode = .cooperative := (step_effect h).1.trans hm
  exact ⟨(stepKeepsInvariant s t hs h).doneBlocked hmt hd, step_done_result hp hm h hd⟩

/-! ## It misses no dead run: the obligation -/

/-- Unit `k` can execute no instruction as things stand: it is blocked, or outside the program. -/
def State.Stuck (s : State) (k : UnitId) : Prop := s.blocked k = true ∨ s.inProgram (s.unit k).pc = false

/-- A cooperative run in which no unit can execute an instruction. -/
structure State.Dead (s : State) : Prop where
  cooperative : s.mode = .cooperative
  running     : s.phase = .run
  stuck       : ∀ k, s.Stuck k

/-- The channels are as before, and each unit too, but for its unit state. -/
def OnlyUstates (s t : State) : Prop := ∀ k, t.chan k = s.chan k ∧ ∃ st, t.unit k = { s.unit k with ustate := st }

theorem OnlyUstates.trans {s t u : State} (h : OnlyUstates s t) (h' : OnlyUstates t u) : OnlyUstates s u := by
  intro k
  obtain ⟨hc, st, hu⟩ := h k
  obtain ⟨hc', st', hu'⟩ := h' k
  exact ⟨hc'.trans hc, st', by rw [hu', hu]⟩

theorem onlyUstates_setCur (s : State) (st : UState) : OnlyUstates s (s.setCur { s.cur with ustate := st }) := by
  refine fun k => ⟨by simp, ?_⟩
  by_cases hk : k = s.executing
  · exact ⟨st, by simp [State.unit_setCur_eq, State.cur, hk]⟩
  · exact ⟨(s.unit k).ustate, by simp [State.unit_setCur_eq, hk]⟩

/-- Whether a unit is stuck depends on the program, the unit and its inbound channel only. -/
theorem State.Stuck.congr {s t : State} {k : UnitId} (h : s.Stuck k) (hp : t.prog = s.prog) (hu : t.unit k = s.unit k)
    (hc : t.chan k.other = s.chan k.other) : t.Stuck k := by
  rw [State.Stuck, blocked_congr hp hu hc, hu, ← fetch_eq_none_iff, State.fetch_congr hp, fetch_eq_none_iff]
  exact h

theorem isRcv_iff {i : Option Instr} : isRcv i = true ↔ ∃ r, i = some (.rcv r) := by
  cases i with
  | none => simp [isRcv]
  | some i => cases i <;> simp [isRcv]

/-- A blocked unit that is not halted is at a `rcv` with its inbound channel empty. -/
theorem rcv_of_blocked {s : State} {k : UnitId} (h : s.blocked k = true) (hh : (s.unit k).ustate ≠ .halted) :
    (∃ r, s.instrAt (s.unit k).pc = some (.rcv r)) ∧ s.chan k.other = [] := by
  simpa [State.blocked, State.atRcv, hh, isRcv_iff] using h

/-- The step of a stuck unit ends its turn (R66). -/
theorem unitStep_of_stuck {s : State} (hm : s.mode = .cooperative) (hp : s.phase = .run) (h : s.Stuck s.executing) :
    ∃ o u, unitStep s = .next (o, u) ∧ (o = .suspend ∨ o = .halt ∨ o = .idle) := by
  by_cases hh : s.cur.ustate = .halted
  · exact ⟨_, _, unitStep_halted hh, by simp⟩
  · obtain hb | hout := h
    · obtain ⟨⟨r, hi⟩, hq⟩ := rcv_of_blocked hb hh
      have ho : outcomeAfter (s.setCur { s.cur with ustate := .suspended }) = .suspend := by simp [outcomeAfter, hp]
      exact ⟨_, _, unitStep_executes hh hi (exec_rcv_waits hm r hq), .inl ho⟩
    · exact ⟨_, _, unitStep_outside hh (fetch_eq_none_iff.2 hout), by simp⟩

/-- The turns a dead run still takes: one after a remembered empty turn, two without one, and one more where the turn under way
has had progress. -/
def State.turnsLeft (s : State) : Nat := if s.turnProgress then 3 else if s.prevZero then 1 else 2

/-- A step of a dead run changes at most a unit's state, which leaves the run dead, and ends a turn. -/
theorem State.Dead.step_endTurn {s : State} (h : s.Dead) :
    ∃ u, step s = .next (endTurn u) ∧ u.Dead ∧ OnlyUstates s u ∧ u.turnsLeft = s.turnsLeft := by
  obtain ⟨hm, hp, hstuck⟩ := h
  obtain ⟨o, u, hu, ho⟩ := unitStep_of_stuck hm hp (hstuck _)
  have hstep := step_cooperative hp hm hu
  rw [afterUnitStep_of_turnEnd ho] at hstep
  obtain ⟨rfl, -⟩ | ⟨rfl, -⟩ | ⟨-, hb, st, rfl⟩ := unitStep_outcome hp hu
  · simp at ho
  · simp at ho
  · refine ⟨_, hstep, ⟨by simpa, by simpa, fun k => ?_⟩, onlyUstates_setCur s st, by simp [State.turnsLeft]⟩
    by_cases hk : k = s.executing
    · exact .inl (hk ▸ hb)
    · exact (hstuck k).congr (by simp) (by simp [State.unit_setCur_eq, hk]) (by simp)

theorem turnsLeft_bounds (s : State) : 1 ≤ s.turnsLeft ∧ s.turnsLeft ≤ 3 := by
  unfold State.turnsLeft
  split_ifs <;> decide

theorem turnsLeft_eq_one_iff {s : State} : s.turnsLeft = 1 ↔ s.turnProgress = false ∧ s.prevZero = true := by
  cases h : s.turnProgress <;> cases h' : s.prevZero <;> simp [State.turnsLeft, h, h']

theorem turnsLeft_endTurn {u : State} (h : u.turnsLeft ≠ 1) : (endTurn u).turnsLeft + 1 = u.turnsLeft := by
  rw [endTurn_passes (mt turnsLeft_eq_one_iff.2 h)]
  cases hp : u.turnProgress <;> cases hz : u.prevZero <;> simp_all [State.turnsLeft]

/-- `t` is `s` with the run ended as R106 has it: unit 1's count as valid result, and of the units and channels at most the units'
states changed. -/
structure EndedFrom (s t : State) : Prop where
  done   : t.phase = .done
  valid  : t.resultValid = true
  result : t.result = s.u1.sentCount
  frame  : OnlyUstates s t

theorem OnlyUstates.endedFrom {s t u : State} (h : OnlyUstates s t) (h' : EndedFrom t u) : EndedFrom s u where
  done := h'.done
  valid := h'.valid
  result := by
    obtain ⟨-, st, hu⟩ := h .u1
    have hcount : (t.unit .u1).sentCount = (s.unit .u1).sentCount := by rw [hu]
    exact h'.result.trans hcount
  frame := h.trans h'.frame

theorem onlyUstates_endTurn (u : State) : OnlyUstates u (endTurn u) :=
  fun k => ⟨endTurn_chan u k, (u.unit k).ustate, endTurn_unit u k⟩

/-- The last turn of a dead run ends it (R106). -/
theorem endedFrom_endTurn {u : State} (h : u.turnsLeft = 1) : EndedFrom u (endTurn u) := by
  rw [turnsLeft_eq_one_iff] at h
  refine ⟨?_, ?_, ?_, onlyUstates_endTurn u⟩ <;> rw [endTurn_over h] <;> rfl

theorem State.Dead.dead_endTurn {u : State} (h : u.Dead) (hl : u.turnsLeft ≠ 1) : (endTurn u).Dead where
  cooperative := (endTurn_mode u).trans h.cooperative
  running := by rw [endTurn_passes (mt turnsLeft_eq_one_iff.2 hl)]; exact h.running
  stuck k := (h.stuck k).congr (afterUnitStep_prog .idle u) (endTurn_unit u k) (endTurn_chan u k.other)

/-- A dead run takes as many steps as it has turns left. -/
theorem State.Dead.runSteps_turnsLeft {n : Nat} {s : State} (h : s.Dead) (hn : s.turnsLeft = n + 1) :
    ∃ t, runSteps (n + 1) s = .next t ∧ EndedFrom s t := by
  induction n generalizing s with
  | zero =>
    obtain ⟨u, hstep, -, hframe, hl⟩ := h.step_endTurn
    exact ⟨_, runSteps_succ_of_step 0 hstep, hframe.endedFrom (endedFrom_endTurn (hl.trans hn))⟩
  | succ n ih =>
    obtain ⟨u, hstep, hdead, hframe, hl⟩ := h.step_endTurn
    have hne : u.turnsLeft ≠ 1 := by omega
    have hpassed := turnsLeft_endTurn hne
    obtain ⟨t, ht, hend⟩ := ih (hdead.dead_endTurn hne) (by omega)
    exact ⟨t, (runSteps_succ_of_step _ hstep).trans ht, hframe.endedFrom ((onlyUstates_endTurn u).endedFrom hend)⟩

/-- Settles O53: a dead run ends in `turnsLeft` steps, which are at most three. -/
theorem deadRunsEndWithinThreeSteps : Obligations.DeadRunsEndWithinThreeSteps := by
  intro s hm hp hstuck
  obtain ⟨hpos, hle⟩ := turnsLeft_bounds s
  obtain ⟨n, hn⟩ := Nat.exists_eq_add_of_le' hpos
  obtain ⟨t, ht, hend⟩ := State.Dead.runSteps_turnsLeft ⟨hm, hp, hstuck⟩ hn
  refine ⟨n + 1, t, hn ▸ hle, ht, hend.done, hend.valid, hend.result, fun k => ?_⟩
  obtain ⟨hc, st, hu⟩ := hend.frame k
  exact ⟨fun i => congrArg (·.reg i) hu, hc⟩

end Sys2Proof.Machine

/-! # The cooperative scheduler (R100 to R109) -/

namespace Sys2Proof.Machine

/-! ## The step of a unit does not see the progress of its turn (R100, R103) -/

/-- `s` with the progress of the turn under way noted as `b`. -/
def State.withProgress (s : State) (b : Bool) : State := { s with turnProgress := b }

theorem setCur_withProgress (s : State) (b : Bool) (u : ExecUnit) :
    (s.withProgress b).setCur u = (s.setCur u).withProgress b := by
  change (s.withProgress b).setUnit s.executing u = (s.setUnit s.executing u).withProgress b
  cases s.executing <;> rfl

theorem setChan_withProgress (s : State) (b : Bool) (k : UnitId) (q : List Word) :
    (s.withProgress b).setChan k q = (s.setChan k q).withProgress b := by
  cases k <;> rfl

theorem cur_withProgress (s : State) (b : Bool) : (s.withProgress b).cur = s.cur := by
  change (s.withProgress b).unit s.executing = s.unit s.executing
  cases s.executing <;> rfl

theorem chan_withProgress (s : State) (b : Bool) (k : UnitId) : (s.withProgress b).chan k = s.chan k := by
  cases k <;> rfl

/-- A cooperative instruction neither reads nor writes the progress of the turn. -/
theorem exec_withProgress {s t : State} {i : Instr} (hm : s.mode = .cooperative) (b : Bool) (he : exec i s = .next t) :
    exec i (s.withProgress b) = .next (t.withProgress b) := by
  have hm' : (s.withProgress b).mode = .cooperative := hm
  by_cases hi : i.silent = true
  · obtain ⟨u, -, hs, hb⟩ | ⟨hs, hb⟩ := exec_silent hi (cur_withProgress s b).symm
    · obtain rfl : s.setCur u = t := by simpa [hs] using he
      rw [hb, setCur_withProgress]
    · obtain rfl : s.raise .modByZero s.cur.pc = t := by simpa [hs] using he
      rw [hb, cur_withProgress]
      rfl
  · cases i with
    | set | add | mul | mod | jgz => exact absurd rfl hi
    | snd x =>
      rw [exec_snd_cooperative hm] at he
      cases he
      rw [exec_snd_cooperative hm', cur_withProgress, chan_withProgress, resolve_congr (cur_withProgress s b),
        setChan_withProgress, setCur_withProgress]
      rfl
    | rcv r =>
      have hchan : (s.withProgress b).chan (s.withProgress b).inbound = s.chan s.inbound := chan_withProgress s b s.inbound
      cases hq : s.chan s.inbound with
      | nil =>
        rw [exec_rcv_waits hm r hq] at he
        cases he
        rw [exec_rcv_waits hm' r (hchan.trans hq), cur_withProgress, setCur_withProgress]
      | cons v rest =>
        rw [exec_rcv_receives hm r hq] at he
        cases he
        rw [exec_rcv_receives hm' r (hchan.trans hq), cur_withProgress, setChan_withProgress, setCur_withProgress]
        rfl

theorem outcomeAfter_withProgress (t : State) (b : Bool) : outcomeAfter (t.withProgress b) = outcomeAfter t := by
  rw [outcomeAfter, cur_withProgress]
  rfl

/-- R100: the scheduler's note of progress does not reach the units. -/
theorem unitStep_withProgress {s u : State} {o : UnitOutcome} (hm : s.mode = .cooperative) (b : Bool)
    (h : unitStep s = .next (o, u)) : unitStep (s.withProgress b) = .next (o, u.withProgress b) := by
  have hcur := cur_withProgress s b
  obtain ⟨hh, rfl, rfl⟩ | ⟨hh, hf, rfl, rfl⟩ | ⟨hh, i, hi, he, rfl⟩ := unitStep_cases h
  · exact unitStep_halted (by rwa [hcur])
  · rw [unitStep_outside (by rwa [hcur]) (by rw [hcur]; exact hf), setUstate_eq, setUstate_eq, hcur, setCur_withProgress]
  · have hi' : (s.withProgress b).instrAt (s.withProgress b).cur.pc = some i := by rw [hcur]; exact hi
    rw [unitStep_executes (by rwa [hcur]) hi' (exec_withProgress hm b he), outcomeAfter_withProgress]

/-! ## The turn-level loop (R109): the obligation -/

/-- A turn is one step that ends it, or one executed instruction and the rest of the turn (R104). -/
theorem unitTurn_cases {fuel m : Nat} {s e : State} (h : unitTurn (fuel + 1) s = some (m, e)) :
    (m = 0 ∧ ∃ o, (o = .suspend ∨ o = .halt ∨ o = .idle) ∧ unitStep s = .next (o, e)) ∨
    ∃ n u, m = n + 1 ∧ unitStep s = .next (.executed, u) ∧ unitTurn fuel u = some (n, e) := by
  unfold unitTurn at h
  split at h
  next u hu =>
    obtain ⟨⟨n, e'⟩, hr, he⟩ := Option.map_eq_some_iff.1 h
    cases he
    exact .inr ⟨n, u, rfl, hu, hr⟩
  next u hu => cases h
  next u hu => cases h; exact .inl ⟨rfl, _, by simp, hu⟩
  next u hu => cases h; exact .inl ⟨rfl, _, by simp, hu⟩
  next u hu => cases h; exact .inl ⟨rfl, _, by simp, hu⟩
  next => cases h
  next => cases h

/-- An executed instruction leaves the machine in a cooperative phase RUN. -/
theorem running_of_executed {s u : State} (hp : s.phase = .run) (hm : s.mode = .cooperative)
    (h : unitStep s = .next (.executed, u)) : u.phase = .run ∧ u.mode = .cooperative :=
  ⟨(unitStep_phase hp h).resolve_right (by simp), (unitStep_effect hp h).1.trans hm⟩

/-- A turn leaves the scheduler's fields to the bookkeeping (R100). -/
theorem unitTurn_scheduler {fuel m : Nat} {s e : State} (hp : s.phase = .run) (hm : s.mode = .cooperative)
    (h : unitTurn fuel s = some (m, e)) :
    e.active = s.active ∧ e.turnProgress = s.turnProgress ∧ e.prevZero = s.prevZero := by
  induction fuel generalizing s m with
  | zero => cases h
  | succ fuel ih =>
    obtain ⟨-, o, -, hu⟩ | ⟨n, u, -, hu, hr⟩ := unitTurn_cases h
    · exact (unitStep_frame hp hu).2
    · obtain ⟨hpu, hmu⟩ := running_of_executed hp hm hu
      obtain ⟨-, ha, ht, hz⟩ := unitStep_frame hp hu
      obtain ⟨ha', ht', hz'⟩ := ih hpu hmu hr
      exact ⟨ha'.trans ha, ht'.trans ht, hz'.trans hz⟩

/-- The steps of a turn of `m` instructions lead to its end state, with progress noted if there was any before or `m` is not 0, and
end the turn there. -/
theorem runSteps_of_unitTurn {fuel m : Nat} {s e : State} (b : Bool) (hp : s.phase = .run) (hm : s.mode = .cooperative)
    (h : unitTurn fuel s = some (m, e)) :
    runSteps (m + 1) (s.withProgress b) = .next (endTurn (e.withProgress (b || decide (m ≠ 0)))) := by
  induction fuel generalizing s m b with
  | zero => cases h
  | succ fuel ih =>
    obtain ⟨rfl, o, ho, hu⟩ | ⟨n, u, rfl, hu, hr⟩ := unitTurn_cases h
    · have hstep := step_cooperative (s := s.withProgress b) hp hm (unitStep_withProgress hm b hu)
      rw [afterUnitStep_of_turnEnd ho] at hstep
      rw [runSteps_succ_of_step 0 hstep]
      simp [runSteps]
    · have hstep : step (s.withProgress b) = .next (u.withProgress true) :=
        step_cooperative (s := s.withProgress b) hp hm (unitStep_withProgress hm b hu)
      obtain ⟨hpu, hmu⟩ := running_of_executed hp hm hu
      rw [runSteps_succ_of_step _ hstep, ih true hpu hmu hr]
      simp

/-- Settles O39: `runSteps_of_unitTurn` from a turn's start, and the two ends of a turn. -/
theorem turnLoopFollowsFromSteps : Obligations.TurnLoopFollowsFromSteps := by
  intro fuel m s e hp hm hs h
  obtain ⟨hactive, hprogress, hzero⟩ := unitTurn_scheduler hp hm h
  have hstart : s.withProgress false = s := by rw [State.withProgress, ← hs]
  have hrun := runSteps_of_unitTurn false hp hm h
  rw [hstart, Bool.false_or] at hrun
  rw [hrun, Host.Outcome.next.injEq]
  split
  next hover =>
    obtain ⟨rfl, hz⟩ := hover
    have hend : e.withProgress (decide (0 ≠ 0)) = e := by
      rw [State.withProgress]
      simp only [ne_eq, not_true_eq_false, decide_false, ← hs, ← hprogress]
    rw [hend, endTurn_over ⟨hprogress.trans hs, hzero.trans hz⟩]
  next hover =>
    have hpass : ¬((e.withProgress (decide (m ≠ 0))).turnProgress = false ∧
        (e.withProgress (decide (m ≠ 0))).prevZero = true) := by
      simpa [State.withProgress, hzero] using hover
    rw [endTurn_passes hpass]
    simp [State.withProgress, hactive]

/-! ## The bookkeeping on each outcome (R102, R106): the obligations -/

section CooperativeStep
variable {s u t : State} {o : UnitOutcome}

/-- A cooperative step is the unit's step and the bookkeeping on its outcome. -/
theorem eq_afterUnitStep (hp : s.phase = .run) (hm : s.mode = .cooperative) (hu : unitStep s = .next (o, u))
    (h : step s = .next t) : t = afterUnitStep o u := by
  rw [step_cooperative hp hm hu] at h
  exact (Host.Outcome.next.inj h).symm

/-- A cooperative step runs a step of the active unit (R102). -/
theorem exists_unitStep_of_step (hp : s.phase = .run) (hm : s.mode = .cooperative) (h : step s = .next t) :
    ∃ o u, unitStep s = .next (o, u) ∧ t = afterUnitStep o u := by
  obtain ⟨hc, -⟩ | ⟨-, hm', -⟩ | ⟨-, hm', -⟩ | ⟨-, -, hunit⟩ := step_cases h
  · simp [hp] at hc
  · simp [hm] at hm'
  · simp [hm] at hm'
  · exact hunit

/-- No unit's step ends the run: only the bookkeeping does (R106). -/
theorem unitStep_phase_ne_done (hp : s.phase = .run) (hu : unitStep s = .next (o, u)) : u.phase ≠ .done := by
  obtain hr | ⟨-, rfl⟩ := unitStep_phase hp hu
  · simp [hr]
  · simp

/-- The outcome Fault is ModByZero at the unit's pc (R79). -/
theorem eq_raise_of_fault (hp : s.phase = .run) (hu : unitStep s = .next (.fault, u)) : u = s.raise .modByZero s.cur.pc := by
  obtain ⟨ho, -⟩ | ⟨-, hraise⟩ | ⟨ho, -⟩ := unitStep_outcome hp hu
  · cases ho
  · exact hraise
  · simp at ho

/-- A unit's step that takes no fault leaves everything outside the unit and the channels alone. -/
theorem unitStep_sameOutside (hp : s.phase = .run) (hu : unitStep s = .next (o, u)) (ho : o ≠ .fault) : SameOutside s u := by
  obtain ⟨-, hout⟩ | ⟨hf, -⟩ | ⟨-, -, st, rfl⟩ := unitStep_outcome hp hu
  · exact hout
  · exact absurd hf ho
  · exact sameOutside_setCur _ _

/-- A step that ends a turn leaves the count of values sent alone. -/
theorem sentCount_of_turnEnd (hp : s.phase = .run) (hu : unitStep s = .next (o, u))
    (ho : o = .suspend ∨ o = .halt ∨ o = .idle) (k : UnitId) : (u.unit k).sentCount = (s.unit k).sentCount := by
  obtain ⟨rfl, -⟩ | ⟨rfl, -⟩ | ⟨-, -, st, rfl⟩ := unitStep_outcome hp hu
  · simp at ho
  · simp at ho
  · obtain ⟨-, st', hk⟩ := onlyUstates_setCur s st k
    rw [hk]

/-- The scheduler's bookkeeping does not touch the fault record (R102). -/
theorem afterUnitStep_faultRecord (o : UnitOutcome) (u : State) :
    (afterUnitStep o u).faultCode = u.faultCode ∧ (afterUnitStep o u).faultIndex = u.faultIndex := by
  have hend : (endTurn u).faultIndex = u.faultIndex := by
    unfold endTurn
    split <;> rfl
  refine ⟨(afterUnitStep_control o u).1, ?_⟩
  cases o with
  | executed | fault => rfl
  | suspend | halt | idle => exact hend

/-- The bookkeeping ends a run exactly at the end of an empty turn after an empty turn (R106). -/
theorem afterUnitStep_done_iff (hu : u.phase ≠ .done) :
    (afterUnitStep o u).phase = .done ↔
      (o = .suspend ∨ o = .halt ∨ o = .idle) ∧ u.turnProgress = false ∧ u.prevZero = true := by
  have hend : (endTurn u).phase = .done ↔ u.turnProgress = false ∧ u.prevZero = true := by
    by_cases hover : u.turnProgress = false ∧ u.prevZero = true
    · simp [endTurn_over hover, hover]
    · simp [endTurn_passes hover, hover, hu]
  cases o with
  | executed | fault => simpa [afterUnitStep] using hu
  | suspend | halt | idle => simpa [afterUnitStep] using hend

/-- The rows of the detector's table at the end of a turn (R106). -/
theorem endTurn_rows (hp : s.phase = .run) (hout : SameOutside s u) (hcount : u.u1.sentCount = s.u1.sentCount) :
    (s.turnProgress = false ∧ s.prevZero = true →
      (endTurn u).phase = .done ∧ (endTurn u).result = s.u1.sentCount ∧ (endTurn u).resultValid = true ∧
      (endTurn u).active = s.active ∧ (endTurn u).turnProgress = s.turnProgress ∧ (endTurn u).prevZero = s.prevZero) ∧
    (¬(s.turnProgress = false ∧ s.prevZero = true) →
      (endTurn u).phase = .run ∧ (endTurn u).prevZero = !s.turnProgress ∧ (endTurn u).turnProgress = false ∧
      (endTurn u).active = s.active.other ∧ (endTurn u).result = s.result ∧ (endTurn u).resultValid = s.resultValid) := by
  rw [← hout.turnProgress, ← hout.prevZero, ← hout.active, ← hout.result, ← hout.resultValid, ← hcount]
  refine ⟨fun hover => ?_, fun hover => ?_⟩
  · rw [endTurn_over hover]
    exact ⟨rfl, rfl, rfl, rfl, rfl, rfl⟩
  · rw [endTurn_passes hover]
    exact ⟨hout.phase.trans hp, rfl, rfl, rfl, rfl, rfl⟩

end CooperativeStep

/-- Settles O36: the end of a turn by `endTurn_rows`, DONE by `afterUnitStep_done_iff`, a fault as the unit's step raised it. -/
theorem twoEmptyTurnsEndTheRun : Obligations.TwoEmptyTurnsEndTheRun := by
  intro s u t o hp hm hu h
  obtain rfl := eq_afterUnitStep hp hm hu h
  obtain ⟨-, -, hprogress, hzero⟩ := unitStep_frame hp hu
  obtain ⟨hmode, hprog, -⟩ := unitStep_effect hp hu
  refine ⟨fun ho => ?_, ?_, ?_, ?_, fun ho => ?_, fun k => ⟨by simp, by simp⟩, by simpa using hmode,
    (afterUnitStep_prog o u).trans hprog⟩
  · have hout : SameOutside s u := unitStep_sameOutside hp hu (by rintro rfl; simp at ho)
    obtain ⟨hover, hpasses⟩ := endTurn_rows hp hout (sentCount_of_turnEnd hp hu ho .u1)
    rw [afterUnitStep_of_turnEnd ho]
    exact ⟨hover, fun hpr => by simpa [hpr] using hpasses, fun ⟨hpr, hz⟩ => by simpa [hpr, hz] using hpasses⟩
  · rintro rfl
    have hout : SameOutside s u := unitStep_sameOutside hp hu (by simp)
    exact ⟨hout.phase.trans hp, rfl, hout.active, hout.prevZero, hout.result, hout.resultValid⟩
  · rintro rfl
    exact eq_raise_of_fault hp hu
  · rw [afterUnitStep_done_iff (unitStep_phase_ne_done hp hu), hprogress, hzero]
  · have hout : SameOutside s u := unitStep_sameOutside hp hu ho
    obtain ⟨hcode, hindex⟩ := afterUnitStep_faultRecord o u
    exact ⟨hcode.trans hout.faultCode, hindex.trans hout.faultIndex⟩

/-! ## Who changes in a cooperative step (R101): the obligation -/

/-- Settles O37: the other unit by `unitStep_frame`; the bookkeeping on Executed and Fault leaves `active` alone. -/
theorem onlyActiveUnitChanges : Obligations.OnlyActiveUnitChanges := by
  intro s t hp hm h
  obtain ⟨o, u, hu, rfl⟩ := exists_unitStep_of_step hp hm h
  obtain ⟨hother, hactive, -⟩ := unitStep_frame hp hu
  rw [executing_cooperative hm] at hother
  refine ⟨by simpa using hother, fun hne => ⟨o, u, hu, ?_, ?_⟩⟩
  · rintro rfl
    exact hne hactive
  · rintro rfl
    exact hne hactive

/-! ## The first turn (R107): the obligation -/

/-- While the turn goes on, the bookkeeping comes to remember no empty turn (R102). -/
theorem prevZero_of_turnKept {o : UnitOutcome} {u : State} (hz : u.prevZero = false)
    (ha : (afterUnitStep o u).active = u.active) : (afterUnitStep o u).prevZero = false := by
  have hpass : (endTurn u).active ≠ u.active := by simp [endTurn_passes, hz]
  cases o with
  | executed | fault => exact hz
  | suspend | halt | idle => exact absurd ha hpass

/-- Settles O38: DONE takes a remembered empty turn, and none is remembered while the turn goes on; two waiting units are a dead
run with two turns left. -/
theorem firstTurnCannotEndTheRun : Obligations.FirstTurnCannotEndTheRun := by
  refine ⟨fun prog => ⟨rfl, rfl, rfl⟩, fun s t hp hm hz h => ?_, fun s hp hm hs hz hwait => ?_⟩
  · obtain ⟨o, u, hu, rfl⟩ := exists_unitStep_of_step hp hm h
    obtain ⟨-, hactive, -, hzero⟩ := unitStep_frame hp hu
    have hzu : u.prevZero = false := hzero.trans hz
    refine ⟨?_, fun ha => prevZero_of_turnKept hzu (ha.trans hactive.symm)⟩
    rw [Ne, afterUnitStep_done_iff (unitStep_phase_ne_done hp hu)]
    simp [hzu]
  · have hdead : s.Dead := ⟨hm, hp, fun k => .inl (blocked_of_waiting (hwait k).2.1 (hwait k.other).2.2)⟩
    obtain ⟨t, ht, hend⟩ := hdead.runSteps_turnsLeft (n := 1) (by simp [State.turnsLeft, hs, hz])
    exact ⟨t, ht, hend.done, hend.valid, hend.result⟩

end Sys2Proof.Machine

/-! # Faults (R120 to R130) -/

namespace Sys2Proof.Machine

/-- No step is enabled in phase FAULT (R65, R124). -/
theorem step_ne_next_of_fault {t : State} (hf : t.phase = .fault) (u : State) : step t ≠ .next u := by
  intro h
  obtain hc | hr := phase_of_step h
  · simp [hf] at hc
  · simp [hf] at hr

/-- Settles O44: the frame by the laws of `raise`, and no step by the phase it leaves. -/
theorem raiseRecordsTheFault : Obligations.RaiseRecordsTheFault := by
  intro s f a
  exact ⟨rfl, rfl, rfl, rfl, State.raise_unit s f a, State.raise_chan s f a, State.raise_fetch s f a, rfl, rfl, rfl, rfl, rfl, rfl,
    step_ne_next_of_fault (State.raise_phase s f a), rfl, rfl, rfl, rfl⟩

/-- The step of a pending `mod` with a zero divisor is the raise itself, in either mode: the scheduler's bookkeeping adds nothing
to the outcome Fault (R79, R102). -/
theorem step_of_pending_mod_zero {s : State} {r : RegIdx} {x : Operand} (hi : s.pending = some (.mod r x)) (hz : s.resolve x = 0) :
    step s = .next (s.raise .modByZero s.cur.pc) := by
  obtain ⟨hrun, hh, -⟩ := instrAt_eq_of_pending hi
  have ho : outcomeAfter (s.raise .modByZero s.cur.pc) = .fault := by simp [outcomeAfter]
  have hu : unitStep s = .next (.fault, s.raise .modByZero s.cur.pc) := ho ▸ unitStep_of_pending hi (exec_mod_zero r hz)
  cases hm : s.mode with
  | standalone => exact step_standalone hrun hm (cur_standalone hm ▸ hh) hu
  | cooperative => exact step_cooperative hrun hm hu

/-- Settles O45: the step is the raise, whose record and frame O44 gives. -/
theorem modByZeroEndsTheRun : Obligations.ModByZeroEndsTheRun := by
  intro s r x hi hz
  obtain ⟨hcode, hindex, hvalid, hphase, hunits, hchans, -, -, hactive, hprogress, hzero, hmode, hresult, hstop, -⟩ :=
    raiseRecordsTheFault s .modByZero s.cur.pc
  exact ⟨_, step_of_pending_mod_zero hi hz, rfl, hphase, congrArg FaultCode.number hcode, hindex, hvalid, hunits, hchans,
    hactive, hprogress, hzero, hmode, hresult, hstop⟩

end Sys2Proof.Machine

/-! # The reset constant as a run (R31, R71, R140) -/

namespace Sys2Proof.Machine

/-- A standalone run whose unit 0 is at a pc outside the program ends in two steps: the unit halts (R66), and the halted unit's
recovered value is the result, valid if it was latched (R71). -/
theorem runSteps_standalone_outside {s : State} (hp : s.phase = .run) (hm : s.mode = .standalone)
    (hh : s.u0.ustate ≠ .halted) (hf : s.fetch s.u0.pc = none) :
    runSteps 2 s = .next ((s.setUstate .halted).finish s.u0.frv s.u0.frvLatched) := by
  have hcur : s.cur = s.u0 := cur_standalone hm
  have hhalt : step s = .next (s.setUstate .halted) := step_standalone hp hm hh (unitStep_outside (hcur ▸ hh) (hcur ▸ hf))
  have hmode : (s.setUstate .halted).mode = .standalone := by simp [setUstate_eq, hm]
  have hzero : (s.setUstate .halted).u0 = { s.u0 with ustate := .halted } := by
    rw [← cur_standalone hmode, setUstate_eq, State.cur_setCur, hcur]
  have hend := step_standalone_done (s := s.setUstate .halted) (by simp [setUstate_eq, hp]) hmode (by rw [hzero])
  rw [runSteps_succ_of_step 1 hhalt, runSteps_succ_of_step 0 hend, runSteps, hzero]

/-- Settles O48: the empty program is valid, and reset's pc 0 is outside it, so unit 0 halts with nothing latched. -/
theorem resetConstantIsEmptyStandaloneRun : Obligations.ResetConstantIsEmptyStandaloneRun := by
  have hvalidate : step State.reset = .next { State.reset with phase := .run } := by
    rw [step_check rfl, validationStep_valid rfl]
  have hout : ({ State.reset with phase := .run } : State).fetch 0 = none := fetch_eq_none_iff.2 (by decide)
  refine ⟨rfl, rfl, fun _ => rfl, _,
    (runSteps_succ_of_step 2 hvalidate).trans (runSteps_standalone_outside rfl rfl (by decide) hout), ?_⟩
  simp [State.hostView, State.reset, State.resetWith, ExecUnit.reset]

end Sys2Proof.Machine
